-- ==== Sys2Proof/Word.lean ====
section
/-! DEFINITION. The value types of the core (rules R8 and R9 of spec/00_scope.md): every value is unsigned. -/

namespace Sys2Proof

/-- A byte: an unsigned 8-bit value (R8). -/
abbrev Byte := BitVec 8

/-- A word: an unsigned 32-bit value (R8); `+` on it is addition modulo 2^32 (R9, R100). -/
abbrev Word := BitVec 32

/-- The bit counter and the length field: 64 bits; `+` on it is the `+64` of R9. -/
abbrev Count64 := BitVec 64

/-- A command word, as the CMD port carries it: 16 bits (R70, R73). -/
abbrev CmdWord := BitVec 16

/-- The contents of the 256-bit DIGEST port (R70, R79). -/
abbrev Digest := BitVec 256

/-- One block: exactly 64 bytes, by its type (R29, R120). -/
abbrev Block := Vector Byte 64

/-- The hash state: exactly 8 words (R21). -/
abbrev HashState := Vector Word 8

end Sys2Proof
end

