-- ==== Sys2Proof/Syntax.lean ====
section
/-! DEFINITION. The command set (R73, R74), the two fields of a command word, and the assembly statements of R81 and R82
as terms. -/

namespace Sys2Proof

/-- The commands of the core: one constructor per row of spec/opcode_table.json (R74). -/
inductive Instr where
  /-- UPDATE b: append the message byte b (R140). `data` is the DATA field, unsigned, not extended (R78). -/
  | update (data : Byte)
  /-- FINALIZE: pad, compress, deliver the digest, reset (R147). It has no operand (R78). -/
  | finalize
  deriving DecidableEq, Repr

/-- The two fields of the one format, CMD16 (R73). -/
structure Cmd16 where
  /-- bits 15:8, the operation code -/
  op : Byte
  /-- bits 7:0, the message byte of UPDATE; 0x00 for FINALIZE -/
  data : Byte
  deriving DecidableEq, Repr

/-- The operand of an assembly statement (R81): a number, in hexadecimal or decimal, or a character literal. A number is
a `Nat` here because the statement may be wrong: an imm8 outside 0..255 is an assembly error. -/
inductive Imm where
  | num (n : Nat)
  | char (c : Char)
  deriving DecidableEq, Repr

/-- One assembly statement (R81), a pseudo-instruction among them (R82). -/
inductive Asm where
  /-- `UPDATE <imm8>` -/
  | update (b : Imm)
  /-- `FINALIZE` -/
  | finalize
  /-- `UPDATE.BYTES b0, b1, ..., bn-1` -/
  | updateBytes (bs : List Imm)
  /-- `UPDATE.STR "s"` -/
  | updateStr (s : List Char)
  /-- `UPDATE.FILL b, n` -/
  | updateFill (b : Imm) (n : Nat)
  /-- `HASH "s"` -/
  | hash (s : List Char)
  /-- `.word w`: the only way to write a reserved word -/
  | rawWord (w : Nat)
  deriving DecidableEq, Repr

end Sys2Proof
end

