-- ==== Sys2Proof/WellFormed.lean ====
section
/-! DEFINITION. Which terms of Syntax.lean the spec admits: the field pairs of R74, and the assembly statements of R81
and R82. -/

namespace Sys2Proof

/-- The rows of R74 that are not reserved: OP 0x01 with any DATA, and OP 0x02 with DATA 0x00. -/
def Cmd16.wf (c : Cmd16) : Bool := c.op == 0x01 || (c.op == 0x02 && c.data == 0x00)

/-- The field values of a command (R73, R74). -/
def Instr.fields (i : Instr) : Cmd16 :=
  match i with
  | .update b => ⟨0x01, b⟩
  | .finalize => ⟨0x02, 0x00⟩

/-- A command is well-formed when its fields are a row of R74 that is not reserved. The type `Instr` already holds no
other command; what can be ill-formed is a field pair (`Cmd16`) or an assembly statement (`Asm`). -/
def Instr.wf (i : Instr) : Bool := i.fields.wf

/-- The number an operand stands for: a character literal stands for its ASCII code (R81). -/
def Imm.value (i : Imm) : Nat :=
  match i with
  | .num n => n
  | .char c => c.toNat

/-- A character with an ASCII code (R81, and note N16 of spec/91_not_in_source.md). -/
def isAscii (c : Char) : Bool := decide (c.toNat < 128)

/-- R81: a number in 0..255, or a character literal, which has an ASCII code. -/
def Imm.wf (i : Imm) : Bool :=
  match i with
  | .num n => decide (n < 256)
  | .char c => isAscii c

/-- R81 and R82: every imm8 in 0..255, every character an ASCII one, a `.word` in 0x0000..0xFFFF. -/
def Asm.wf (a : Asm) : Bool :=
  match a with
  | .update b => b.wf
  | .finalize => true
  | .updateBytes bs => bs.all Imm.wf
  | .updateStr s => s.all isAscii
  | .updateFill b _ => b.wf
  | .hash s => s.all isAscii
  | .rawWord w => decide (w < 65536)

end Sys2Proof
end

