-- ==== Sys2Proof/Decode.lean ====
section
/-! DEFINITION. Decoding (R76), total on the 16-bit words; then the encoder (R73, R74) and the assembler (R80 to R82). -/

namespace Sys2Proof

/-- The names under which decoding rejects a word. -/
inductive DecodeError where
  /-- `RESERVED(w)`: R74 maps the word to no command (R75). -/
  | reserved (w : CmdWord)
  deriving DecidableEq, Repr

/-- The OP field, bits 15:8 (R73). -/
def opField (w : CmdWord) : Byte := w.extractLsb' 8 8

/-- The DATA field, bits 7:0: for UPDATE the message byte itself, not extended, scaled or shifted (R73, R78). -/
def dataField (w : CmdWord) : Byte := w.extractLsb' 0 8

/-- R76, `decode(w)`. -/
def decode (w : CmdWord) : Except DecodeError Instr :=
  if opField w = 0x01 then .ok (.update (dataField w))
  else if w = 0x0200 then .ok .finalize
  else .error (.reserved w)

/-- The command word a table row's number stands for. The one format is 16 bits wide (R73, R77), so a row has at most 16
bits, and every bit above `nbits` is 0. -/
def tableCommand (nbits w : Nat) : CmdWord := BitVec.ofNat 16 (w % 2 ^ nbits)

/-- The instruction the decoder reads from an instruction whose bits, numbered as spec/opcode_table.json numbers them,
are `w`. A command is one word on the CMD port and is not stored in bytes (R62), so no byte order enters. -/
def decodeTableWord (nbits w : Nat) : Option Instr :=
  if nbits ≤ 16 then (decode (tableCommand nbits w)).toOption else none

/-- The word with the given fields: OP in bits 15:8, DATA in bits 7:0 (R73). -/
def Cmd16.word (c : Cmd16) : CmdWord := c.op ++ c.data

/-- The command word of a command: UPDATE assembles to 0x0100 | imm8, FINALIZE to 0x0200 (R73, R81). -/
def encode (i : Instr) : CmdWord :=
  match i with
  | .update b => 0x0100 ||| b.setWidth 16
  | .finalize => 0x0200

/-- The byte an operand stands for. -/
def Imm.byte (i : Imm) : Byte := BitVec.ofNat 8 i.value

/-- The ASCII codes of a string's characters, no terminator (R82). -/
def asciiBytes (s : List Char) : List Byte := s.map fun c => BitVec.ofNat 8 c.toNat

/-- R80: the host's `update(bytes)` is one UPDATE command per byte, in order; none for no byte. -/
def updateCommands (bs : List Byte) : List Instr := bs.map Instr.update

/-- R80 and R78: the host's hashing of one message is its bytes through UPDATE, then exactly one FINALIZE. -/
def messageCommands (bs : List Byte) : List Instr := updateCommands bs ++ [Instr.finalize]

/-- The words of a statement: a command's word, or the expansion of R82. -/
def Asm.words (a : Asm) : List CmdWord :=
  match a with
  | .update b => [encode (.update b.byte)]
  | .finalize => [encode .finalize]
  | .updateBytes bs => (updateCommands (bs.map Imm.byte)).map encode
  | .updateStr s => (updateCommands (asciiBytes s)).map encode
  | .updateFill b n => (updateCommands (List.replicate n b.byte)).map encode
  | .hash s => (messageCommands (asciiBytes s)).map encode
  | .rawWord w => [BitVec.ofNat 16 w]

/-- What the assembler answers for a wrong statement: "an assembly error, not a command" (R81). -/
inductive AsmError where
  | illFormed (a : Asm)
  deriving DecidableEq, Repr

/-- Assembling one statement (R81, R82). -/
def assemble (a : Asm) : Except AsmError (List CmdWord) :=
  if a.wf then .ok a.words else .error (.illFormed a)

end Sys2Proof
end

