-- ==== Sys2Proof/Machine/Bytes.lean ====
section
/-! DEFINITION. Every conversion between bytes and words is big-endian, and nothing switches it (R55): the one place that
decides the byte order (R10, R52, R53, R54, R79). -/

namespace Sys2Proof.Machine

/-- `BE32(b0,b1,b2,b3)`: b0 supplies bits 31:24 (R10, R52). -/
def be32 (b0 b1 b2 b3 : Byte) : Word := b0 ++ b1 ++ b2 ++ b3

/-- `BEbytes_N(v)`: byte k is `v[8N-1-8k : 8N-8-8k]` (R10). -/
def beBytes (n : Nat) {w : Nat} (v : BitVec w) : List Byte :=
  (List.range n).map fun k => v.extractLsb' (8 * n - 8 - 8 * k) 8

/-- `zeros(n)`: n bytes of 0x00 (R10). -/
def zeros (n : Nat) : List Byte := List.replicate n 0

/-- The block that holds a sequence of exactly 64 bytes (R29, R120). -/
def blockOf (l : List Byte) (h : l.length = 64) : Block := ⟨l.toArray, by simpa using h⟩

/-- The word W[t] of a block: `BE32(blk[4t], blk[4t+1], blk[4t+2], blk[4t+3])` (R52). -/
def blockWord (blk : Block) (t : Nat) (h : t < 16) : Word :=
  be32 blk[4 * t] blk[4 * t + 1] blk[4 * t + 2] blk[4 * t + 3]

/-- The 32 digest bytes D of a final hash state: `BEbytes_4` of each word, the words in order (R54). -/
def digestBytes (hf : HashState) : List Byte := hf.toList.flatMap (beBytes 4)

/-- The DIGEST port: D[0] in bits 255:248, then the next byte, and so on, so that byte k stands in
`DIGEST[255 - 8k : 248 - 8k]` (R79). -/
def portOfBytes (d : List Byte) : Digest := d.foldl (fun acc b => (acc <<< 8) ||| b.setWidth 256) 0

/-- The digest of a final hash state, as the DIGEST port carries it (R54, R79). -/
def digestOf (hf : HashState) : Digest := portOfBytes (digestBytes hf)

/-- Byte k of a digest, read from the port: `D[k] = DIGEST[255 - 8k : 248 - 8k]` (R79). -/
def digestByte (d : Digest) (k : Fin 32) : Byte := d.extractLsb' (248 - 8 * k.val) 8

/-- The lowercase digit of a nibble (R152). -/
def hexDigit (n : BitVec 4) : Char := ("0123456789abcdef".toList)[n.toNat]?.getD '0'

/-- R152, a host function: `Hex(D)`, the high nibble of each byte first. -/
def hex (d : Digest) : List Char :=
  (List.finRange 32).flatMap fun k =>
    [hexDigit ((digestByte d k).extractLsb' 4 4), hexDigit ((digestByte d k).extractLsb' 0 4)]

end Sys2Proof.Machine
end

