-- ==== Sys2Proof/Config.lean ====
section
/-! DEFINITION. What the spec leaves open (spec/93_implementation_defined.md): the free values and the OPEN parameters of
R6. None has a body, so nothing can be proved of a value of one. -/

namespace Sys2Proof

/-- FREE VALUE. Entering S0 leaves the bytes of BUF unspecified (R23, R34, R147, R190): byte `i` of BUF after the `n`-th
entry into S0. -/
opaque Config.freeBufByte (n i : Nat) : Byte

/-- The OPEN parameter LAT_UPDATE: from acceptance to completion of an UPDATE that does not fill the buffer (R201). -/
opaque Config.latUpdate : Nat

/-- The OPEN parameter LAT_COMPRESS: the extra latency of one compression (R201). -/
opaque Config.latCompress : Nat

/-- The OPEN parameter LAT_FINALIZE: from acceptance to DIGEST_VALID, which includes the given number, one or two, of
compressions (R201). -/
opaque Config.latFinalize (compressions : Nat) : Nat

/-- What silicon could do with a reserved command word (R75): "It could be a no-op, a hang, or the execution of some
other command". -/
inductive ReservedBehaviour where
  | noOp
  | hang
  | otherCommand (i : Instr)
  deriving DecidableEq, Repr, Inhabited

/-- The OPEN parameter RESERVED_CMD_BEHAVIOUR (R6, R75). No rule may assume it, so nothing in the model reads it: the
model refuses a reserved word. -/
opaque Config.reservedCmdBehaviour (w : CmdWord) : ReservedBehaviour

end Sys2Proof
end

