-- ==== Sys2Proof/Machine/State.lean ====
section
/-! DEFINITION. The state of one core instance as plain data: the architectural tuple of R20, the compressor's transient
registers of R28, the response channel of R72, the refusal mark of R11, and the environment's side of the ports of R70. -/

namespace Sys2Proof.Machine

/-- The working variables a..h (R28). -/
structure WorkVars where
  a : Word
  b : Word
  c : Word
  d : Word
  e : Word
  f : Word
  g : Word
  h : Word
  deriving DecidableEq, Repr

/-- The compressor's transient registers (R28). No command reads what an earlier command left in them. -/
structure Compressor where
  /-- W[0..63], the message schedule -/
  w : Vector Word 64
  /-- a..h, the working variables -/
  vars : WorkVars
  /-- i, the round index, 0..64: 0 before the first round, 64 once the last is done (R28, R31) -/
  round : Fin 65
  /-- Hin, the input hash state, kept for the feed-forward addition -/
  hin : HashState
  deriving DecidableEq, Repr

/-- What the host drives on the input ports at one rising edge of CLK (R70). -/
structure HostDrive where
  /-- RST -/
  rst : Bool
  /-- CMD_VALID = 1 with this word on CMD, or CMD_VALID = 0 -/
  cmd : Option CmdWord
  /-- DIGEST_READY -/
  digestReady : Bool
  deriving DecidableEq, Repr

/-- The state of one core instance, with the environment's side of its ports. -/
structure State where
  /-- H[0..7], the hash state (R21) -/
  h : HashState
  /-- BUF[0..63], the pending buffer's storage (R23) -/
  buf : Vector Byte 64
  /-- BUFLEN, 6 bits, the number of pending bytes (R24) -/
  buflen : BitVec 6
  /-- BITCNT, the bits already compressed by UPDATE (R25) -/
  bitcnt : Count64
  /-- the compressor's transient registers (R28) -/
  comp : Compressor
  /-- the response channel (R72): DIGEST_VALID = 1 with this value on DIGEST, or DIGEST_VALID = 0. Outside DIGEST_VALID
  the port has no value in the model (decision D6 of spec/92_eei_decisions.md). -/
  response : Option Digest
  /-- the refusal mark (R11, R75): the reserved word a step of this run has refused -/
  refusalMark : Option CmdWord
  /-- environment: what the host drives on the input ports at the coming steps, the next one first -/
  drives : List HostDrive
  /-- environment: the digests the host has taken, oldest first (R72, R35) -/
  delivered : List Digest
  /-- the model's own counter of entries into S0, to which the free value `Config.freeBufByte` is applied -/
  freeCount : Nat
  deriving DecidableEq, Repr

/-- The faults. There is none: "There is no fault outcome, because the source gives the core no failure mode" (R11), and
the core raises no exception for any input or command sequence (R170). -/
inductive Fault where
  deriving DecidableEq, Repr

/-- The refusals: the step has no meaning in the model (R11). -/
inductive Refusal where
  /-- Raised by `exec` for an instruction the model gives no meaning yet. Safe: no claim about such a run is provable.
  No arm of `exec` answers it now. -/
  | notModelled (mnemonic : String)
  /-- `Refused(word)`: raised by the step that accepts a reserved command word, and by every later step of the run it
  marks (R11, R75). What silicon does is the open parameter `Config.reservedCmdBehaviour`. Safe: no claim about a run
  that contains one can be proved (decision D4). -/
  | reservedCommand (w : CmdWord)
  deriving DecidableEq, Repr

/-- The command word a refusal is about: the one of `Refused(word)` (R11, R75). -/
def Refusal.reservedWord? : Refusal → Option CmdWord
  | .notModelled _ => none
  | .reservedCommand w => some w

/-- The compressor's registers at `State.reset`: the spec gives no reset value but the round index, which "is 0 before
the first round" (R28). DESIGN CHOICE: the others are zero (log entry 3). -/
def Compressor.reset : Compressor :=
  { w := Vector.replicate 64 0
    vars := ⟨0, 0, 0, 0, 0, 0, 0, 0⟩
    round := 0
    hin := Vector.replicate 8 0 }

/-- The launch state: S0 of R34, with no command in flight and no digest pending (R192), no refusal mark, and a host that
drives nothing. The bytes of BUF are unspecified in S0; DESIGN CHOICE: zero here (log entry 2). -/
def State.reset : State :=
  { h := iv
    buf := Vector.replicate 64 0
    buflen := 0
    bitcnt := 0
    comp := Compressor.reset
    response := none
    refusalMark := none
    drives := []
    delivered := []
    freeCount := 0 }

end Sys2Proof.Machine
end

