-- ==== Sys2Proof/Machine/Flags.lean ====
section
/-! DEFINITION. The core has no status flags, condition codes or predicates (R32), so no operation computes one. The only
signals it shows are its output ports (R70), computed here from the one place that holds the response channel. -/

namespace Sys2Proof.Machine

/-- DIGEST_VALID: DIGEST holds a digest not yet taken (R70, R72). -/
def State.digestValid (s : State) : Bool := s.response.isSome

/-- CMD_READY: 0 from the acceptance of a command until it has completed, which for FINALIZE includes the taking of its
digest (R71). Between two steps of the transaction level the only command not completed is a FINALIZE whose digest
waits. -/
def State.cmdReady (s : State) : Bool := !s.digestValid

/-- DIGEST, meaningful only while DIGEST_VALID = 1; a read at any other time has no value (R72, decision D6). -/
def State.digestPort (s : State) : Option Digest := s.response

end Sys2Proof.Machine
end

