-- ==== Sys2Proof/Machine/Ops.lean ====
section
/-! DEFINITION. The named operations over the registers and the storage of State (R10): every meaning goes through them.
The core has no trap mechanism (R176), so no operation takes an exception or returns from one; the one event from outside
that redirects the core is reset (R190). -/

namespace Sys2Proof.Machine

/-- `H <- v`, all eight words. -/
def State.writeH (v : HashState) (s : State) : State := { s with h := v }

/-- `BUF[i] <- b`. -/
def State.writeBuf (i : BitVec 6) (b : Byte) (s : State) : State :=
  { s with buf := s.buf.set i.toNat b i.isLt }

/-- `BUF[i]`. -/
def State.readBuf (i : BitVec 6) (s : State) : Byte := s.buf[i.toNat]'i.isLt

/-- `BUFLEN <- v`. -/
def State.writeBuflen (v : BitVec 6) (s : State) : State := { s with buflen := v }

/-- `BITCNT <- v`. -/
def State.writeBitcnt (v : Count64) (s : State) : State := { s with bitcnt := v }

/-- The compressor's registers after a compression has used them (R28). -/
def State.writeComp (c : Compressor) (s : State) : State := { s with comp := c }

/-- `respond(D)`: the digest on the response channel, DIGEST_VALID = 1 (R10, R72). -/
def State.respond (d : Digest) (s : State) : State := { s with response := some d }

/-- The host takes the digest: DIGEST_VALID falls to 0, and the core keeps no copy (R72, R35). Nothing happens where no
digest is offered. -/
def State.takeDigest (s : State) : State :=
  match s.response with
  | some d => { s with response := none, delivered := s.delivered ++ [d] }
  | none => s

/-- A digest not taken is withdrawn: DIGEST_VALID <- 0, none delivered (R190, R198). -/
def State.dropResponse (s : State) : State := { s with response := none }

/-- `refuse`: the refusal mark, kept for the rest of the run (R11, R75). -/
def State.setRefusalMark (w : CmdWord) (s : State) : State := { s with refusalMark := some w }

/-- The environment's next drive has been used. -/
def State.popDrive (s : State) : State := { s with drives := s.drives.tail }

/-- The bytes of BUF after the `n`-th entry into S0: unspecified (R34), each a free value. DESIGN CHOICE: it is a function of
n and the byte index alone, so two entries with the same n, be they of two instances, of two runs, or of a FINALIZE and a
reset from one state, leave the same bytes, which the spec does not say (log entry 4). -/
def unspecifiedBuf (n : Nat) : Vector Byte 64 := Vector.ofFn fun i => Config.freeBufByte n i.val

/-- BUF's bytes become unspecified (R23, R34): each byte a free value. -/
def State.forgetBuf (s : State) : State :=
  { s with buf := unspecifiedBuf s.freeCount, freeCount := s.freeCount + 1 }

/-- `H <- IV ; BUFLEN <- 0 ; BITCNT <- 0`, BUF unspecified: the state S0, which FINALIZE and reset leave (R34). -/
def State.enterS0 (s : State) : State := (((s.writeH iv).writeBuflen 0).writeBitcnt 0).forgetBuf

/-- RESET (R190): S0, and no digest offered. A command in flight leaves nothing behind: at this level it is a FINALIZE
whose digest waits, and the digest is withdrawn (R198). -/
def State.resetEvent (s : State) : State := s.enterS0.dropResponse

/-- The registers of S0 at their values (R34); the bytes of BUF are unspecified there. -/
abbrev State.isS0 (s : State) : Prop := s.h = iv ∧ s.buflen = 0 ∧ s.bitcnt = 0

end Sys2Proof.Machine
end

