-- ==== Sys2Proof/Machine/Operands.lean ====
section
/-! DEFINITION. What the commands work on: the pending bytes (R23), the full buffer as a block (R140), the length field
(R144) and the padded blocks (R145, R146). The byte operand of UPDATE is the DATA field as it stands (R78). -/

namespace Sys2Proof.Machine

/-- The pending buffer: BUF[0], ..., BUF[BUFLEN-1], in arrival order (R23). -/
def State.pending (s : State) : List Byte := s.buf.toList.take s.buflen.toNat

theorem State.length_pending (s : State) : s.pending.length = s.buflen.toNat := by
  have := s.buflen.isLt
  simp only [State.pending, List.length_take, Vector.length_toList]
  omega

/-- `BUF[0] ++ ... ++ BUF[63]`, the block UPDATE compresses (R29, R140). -/
def State.bufBlock (s : State) : Block := s.buf

/-- The pre-padding message length in bits, `L = BITCNT +64 zext_64(8 · n)` with n = BUFLEN (R144). -/
def State.messageBits (s : State) : Count64 := s.bitcnt + BitVec.ofNat 64 (8 * s.buflen.toNat)

/-- The bytes of the one final block, for at most 55 pending bytes (R145). -/
def padOneBytes (pend : List Byte) (len : Count64) : List Byte :=
  pend ++ [0x80] ++ zeros (55 - pend.length) ++ beBytes 8 len

/-- The bytes of the first of two final blocks, for 56 to 63 pending bytes (R146). -/
def padFirstBytes (pend : List Byte) : List Byte := pend ++ [0x80] ++ zeros (63 - pend.length)

/-- The bytes of the second of two final blocks (R146). -/
def padSecondBytes (len : Count64) : List Byte := zeros 56 ++ beBytes 8 len

theorem length_padOneBytes (pend : List Byte) (len : Count64) (h : pend.length ≤ 55) :
    (padOneBytes pend len).length = 64 := by
  simp only [padOneBytes, zeros, beBytes, List.length_append, List.length_replicate, List.length_map, List.length_range,
    List.length_singleton]
  omega

theorem length_padFirstBytes (pend : List Byte) (h : pend.length ≤ 63) : (padFirstBytes pend).length = 64 := by
  simp only [padFirstBytes, zeros, List.length_append, List.length_replicate, List.length_singleton]
  omega

theorem length_padSecondBytes (len : Count64) : (padSecondBytes len).length = 64 := by
  simp [padSecondBytes, zeros, beBytes]

/-- blk1 of the one-block case (R145). -/
def State.padOne (s : State) (h : s.buflen.toNat ≤ 55) : Block :=
  blockOf (padOneBytes s.pending s.messageBits)
    (length_padOneBytes _ _ (by rw [State.length_pending]; exact h))

/-- blk1 of the two-block case (R146). -/
def State.padFirst (s : State) : Block :=
  blockOf (padFirstBytes s.pending)
    (length_padFirstBytes _ (by have := s.buflen.isLt; rw [State.length_pending]; omega))

/-- blk2 of the two-block case: no message byte and no terminator (R146). -/
def State.padSecond (s : State) : Block :=
  blockOf (padSecondBytes s.messageBits) (length_padSecondBytes _)

end Sys2Proof.Machine
end

