-- ==== Sys2Proof/Machine/Primitives.lean ====
section
/-! DEFINITION. The word operations of the compressor (R100 to R109). Each is internal: no command word names one. The
addition of R100 is `+` on `Word`, and AND, XOR and NOT of R103 are `&&&`, `^^^` and `~~~` on it. -/

namespace Sys2Proof.Machine

/-- `rotr(x,n) = (x >> n) or ((x << (32-n)) mod 2^32)`, for the wired amounts 1 ≤ n ≤ 31 (R101). -/
def rotr (x : Word) (n : Nat) : Word := (x >>> n) ||| (x <<< (32 - n))

/-- `x >> n = floor(x / 2^n)`, a logical shift (R102). -/
def shr (x : Word) (n : Nat) : Word := x >>> n

/-- SIG0, σ0 (R104). -/
def sig0 (x : Word) : Word := rotr x 7 ^^^ rotr x 18 ^^^ shr x 3

/-- SIG1, σ1 (R105). -/
def sig1 (x : Word) : Word := rotr x 17 ^^^ rotr x 19 ^^^ shr x 10

/-- BSIG0, Σ0 (R106). -/
def bsig0 (x : Word) : Word := rotr x 2 ^^^ rotr x 13 ^^^ rotr x 22

/-- BSIG1, Σ1 (R107). -/
def bsig1 (x : Word) : Word := rotr x 6 ^^^ rotr x 11 ^^^ rotr x 25

/-- CH, choose (R108). -/
def ch (x y z : Word) : Word := (x &&& y) ^^^ (~~~x &&& z)

/-- MAJ, majority (R109). -/
def maj (x y z : Word) : Word := (x &&& y) ^^^ (x &&& z) ^^^ (y &&& z)

end Sys2Proof.Machine
end

