-- ==== Sys2Proof/Machine/Compressor.lean ====
section
/-! DEFINITION. The compressor (R110 to R119): the message schedule, the 64 rounds and the feed-forward addition, as
operations on the compressor's registers (R28). -/

namespace Sys2Proof.Machine

/-- SCHED_LOAD: `for t in 0..15: W[t] <- BE32(blk[4t], ..., blk[4t+3])` (R111). -/
def Compressor.schedLoad (blk : Block) (c : Compressor) : Compressor :=
  { c with w := Nat.fold 16 (fun t ht w => w.set t (blockWord blk t ht)) c.w }

/-- The recurrence of the schedule, from W[t-2], W[t-7], W[t-15] and W[t-16] (R112). -/
def schedWord (w2 w7 w15 w16 : Word) : Word := sig1 w2 + w7 + sig0 w15 + w16

/-- SCHED_EXPAND: `for t in 16..63: W[t] <- σ1(W[t-2]) + W[t-7] + σ0(W[t-15]) + W[t-16]`, in increasing t (R112). The
fold's index is t - 16. -/
def Compressor.schedExpand (c : Compressor) : Compressor :=
  { c with w := Nat.fold 48 (fun k _ w => w.set (k + 16) (schedWord w[k + 14] w[k + 9] w[k + 1] w[k])) c.w }

/-- WV_INIT: `(a,...,h) <- (Hin[0],...,Hin[7])` (R113); Hin is kept for the feed-forward, and the round index is 0
(R28). -/
def Compressor.wvInit (hin : HashState) (c : Compressor) : Compressor :=
  { c with vars := ⟨hin[0], hin[1], hin[2], hin[3], hin[4], hin[5], hin[6], hin[7]⟩, round := 0, hin := hin }

/-- T1 of a round (R114). -/
def roundT1 (k w : Word) (v : WorkVars) : Word := v.h + bsig1 v.e + ch v.e v.f v.g + k + w

/-- T2 of a round (R115). -/
def roundT2 (v : WorkVars) : Word := bsig0 v.a + maj v.a v.b v.c

/-- The simultaneous assignment of one round, with round constant k and schedule word w (R116). -/
def roundVars (k w : Word) (v : WorkVars) : WorkVars :=
  { a := roundT1 k w v + roundT2 v
    b := v.a
    c := v.b
    d := v.c
    e := v.d + roundT1 k w v
    f := v.e
    g := v.f
    h := v.g }

/-- ROUND i with a given schedule word: the working variables move, and the round index goes to i + 1 (R116, R31). -/
def Compressor.roundWith (w : Word) (i : Fin 64) (c : Compressor) : Compressor :=
  { c with vars := roundVars (readK i) w c.vars, round := i.succ }

/-- ROUND i: it uses W[i] and K[i], and no other schedule word or constant (R116, R117). -/
def Compressor.roundStep (i : Fin 64) (c : Compressor) : Compressor := c.roundWith c.w[i] i

/-- ROUNDS: `for i in 0..63: ROUND i` (R117). -/
def Compressor.rounds (c : Compressor) : Compressor := Nat.fold 64 (fun i hi c => c.roundStep ⟨i, hi⟩) c

/-- FEED_FWD: `Hout[j] <- Hin[j] +` the j-th working variable (R118). -/
def Compressor.feedFwd (c : Compressor) : HashState :=
  #v[c.hin[0] + c.vars.a, c.hin[1] + c.vars.b, c.hin[2] + c.vars.c, c.hin[3] + c.vars.d,
     c.hin[4] + c.vars.e, c.hin[5] + c.vars.f, c.hin[6] + c.vars.g, c.hin[7] + c.vars.h]

/-- The steps of one compression up to FEED_FWD, on the compressor's registers (R119). -/
def Compressor.run (hin : HashState) (blk : Block) (c : Compressor) : Compressor :=
  (((c.schedLoad blk).schedExpand).wvInit hin).rounds

/-- `Compress(Hin, blk)`, the pure function of R119. It starts from registers of zeros; what they hold before the
compression does not matter (`Sys2Proof.Laws.feedFwd_run`). -/
def compress (hin : HashState) (blk : Block) : HashState := (Compressor.reset.run hin blk).feedFwd

/-- One compression by the core: it uses the core's own compressor registers (R28, R119). -/
def State.runCompressor (hin : HashState) (blk : Block) (s : State) : State := s.writeComp (s.comp.run hin blk)

/-- The result of the compression last run (R118). -/
def State.hout (s : State) : HashState := s.comp.feedFwd

end Sys2Proof.Machine
end

