-- ==== Sys2Proof/Machine/Controller.lean ====
section
/-! DEFINITION. The meanings of the two commands, UPDATE (R140) and FINALIZE (R147). -/

namespace Sys2Proof.Machine

/-- The 64th byte completes a block: `H <- Compress(H, BUF)`, `BITCNT <- BITCNT +64 512`, `BUFLEN <- 0` (R140). -/
def State.completeBlock (s : State) : State :=
  let t := s.runCompressor s.h s.bufBlock
  ((t.writeH t.hout).writeBitcnt (s.bitcnt + 512)).writeBuflen 0

/-- The effect of UPDATE b (R140). -/
def State.update (b : Byte) (s : State) : State :=
  let t := s.writeBuf s.buflen b
  if s.buflen = 63 then t.completeBlock else t.writeBuflen (s.buflen + 1)

/-- The final one or two compressions of FINALIZE (R147): the last one's result, Hf, is left in the compressor. H1, the
result between two, is never stored in H. -/
def State.finalCompress (s : State) : State :=
  if h : s.buflen.toNat ≤ 55 then
    s.runCompressor s.h (s.padOne h)
  else
    let t := s.runCompressor s.h s.padFirst
    t.runCompressor t.hout s.padSecond

/-- The effect of FINALIZE (R147): the digest on the response channel, and the core in S0. -/
def State.finalize (s : State) : State :=
  let t := s.finalCompress
  (t.respond (digestOf t.hout)).enterS0

/-- UPDATE b (R140). No error conditions (R170). -/
def execUpdate (b : Byte) (s : State) : Host.Outcome State Fault Refusal := .next (s.update b)

/-- FINALIZE (R147). No error conditions (R170). The outcome Respond(S0, D) of R11 is a next state that holds S0 and, on
the response channel, D. -/
def execFinalize (s : State) : Host.Outcome State Fault Refusal := .next s.finalize

/-- How many compressions a command takes from a state (R150). -/
def compressions (i : Instr) (s : State) : Nat :=
  match i with
  | .update _ => if s.buflen = 63 then 1 else 0
  | .finalize => if s.buflen.toNat ≤ 55 then 1 else 2

/-- The latency of a command in the OPEN parameters of R201. No other definition reads it: the model has no time. -/
def latency (i : Instr) (s : State) : Nat :=
  match i with
  | .update b => Config.latUpdate + compressions (.update b) s * Config.latCompress
  | .finalize => Config.latFinalize (compressions .finalize s)

end Sys2Proof.Machine
end

