-- ==== Sys2Proof/Machine/Dispatch.lean ====
section
/-! DEFINITION. One arm per command (R74). -/

namespace Sys2Proof.Machine

def exec (i : Instr) (s : State) : Host.Outcome State Fault Refusal :=
  match i with
  | .update b => Sys2Proof.Machine.execUpdate b s
  | .finalize => Sys2Proof.Machine.execFinalize s

end Sys2Proof.Machine
end

