-- ==== Sys2Proof/Machine/Interface.lean ====
section
/-! DEFINITION. The command and response handshakes at the transaction level (R71, R72, R175, R194, R196): what the ports
ask of the core at the next step, and what the core does. -/

namespace Sys2Proof.Machine

/-- What the next step is. -/
inductive Event where
  /-- the run carries a refusal mark: the model gives it no meaning (R11) -/
  | marked (w : CmdWord)
  /-- the environment drives nothing more: the core is idle and keeps its state (R183) -/
  | quiet
  /-- RST = 1: it has priority over a command presented at the same edge (R175) -/
  | reset
  /-- a digest is offered and DIGEST_READY = 1: the host takes it, and its FINALIZE completes (R72) -/
  | take
  /-- a digest is offered and DIGEST_READY = 0: the core waits, and does not look at CMD (R71, R194, R196) -/
  | hold
  /-- CMD_READY = 1 and CMD_VALID = 0: the core is idle (R183) -/
  | idle
  /-- a command is accepted (R71); `ready` is DIGEST_READY -/
  | accept (i : Instr) (ready : Bool)
  /-- a reserved command word is accepted (R75) -/
  | reserved (w : CmdWord)
  deriving DecidableEq, Repr

/-- A word at the accepting edge: CMD_VALID = 1, CMD_READY = 1 and RST = 0 (R71). The word accepted is the word on CMD at
that edge (R194). -/
def acceptEvent (w : CmdWord) (ready : Bool) : Event :=
  match decode w with
  | .ok i => .accept i ready
  | .error _ => .reserved w

/-- What one rising edge with these inputs is, for a core whose run is not marked. -/
def State.edgeEvent (d : HostDrive) (s : State) : Event :=
  if d.rst then .reset
  else if s.digestValid then (if d.digestReady then .take else .hold)
  else
    match d.cmd with
    | none => .idle
    | some w => acceptEvent w d.digestReady

/-- What the next step of a state is. -/
def State.nextEvent (s : State) : Event :=
  match s.refusalMark with
  | some w => .marked w
  | none =>
    match s.drives with
    | [] => .quiet
    | d :: _ => s.edgeEvent d

/-- Acceptance and completion are one step (R7, R71). For FINALIZE completion includes the taking of the digest, in this
step where DIGEST_READY = 1; where it is 0, the digest waits (R196). -/
def complete (ready : Bool) (o : Host.Outcome State Fault Refusal) : Host.Outcome State Fault Refusal :=
  match o with
  | .next t => .next (if ready then t.takeDigest else t)
  | .fault f => .fault f
  | .refused r => .refused r

/-- What the core does at a step. -/
def runEvent (e : Event) (s : State) : Host.Outcome State Fault Refusal :=
  match e with
  | .marked w => .refused (.reservedCommand w)
  | .quiet => .next s
  | .reset => .next s.popDrive.resetEvent
  | .take => .next s.popDrive.takeDigest
  | .hold => .next s.popDrive
  | .idle => .next s.popDrive
  | .accept i ready => complete ready (exec i s.popDrive)
  | .reserved w => .refused (.reservedCommand w)

/-- A drive that presents a command, with the host ready to take a digest. -/
def presentDrive (w : CmdWord) : HostDrive := { rst := false, cmd := some w, digestReady := true }

/-- A drive that requests a reset and presents nothing. -/
def resetDrive : HostDrive := { rst := true, cmd := none, digestReady := false }

/-- A drive of a host that presents nothing and takes nothing. -/
def silentDrive : HostDrive := { rst := false, cmd := none, digestReady := false }

/-- The host puts a command word on CMD for the coming step, and nothing stands before it: no digest waits, and the run
carries no refusal mark. -/
def State.present (w : CmdWord) (s : State) : State :=
  { s with drives := presentDrive w :: s.drives, response := none, refusalMark := none }

end Sys2Proof.Machine
end

