-- ==== Sys2Proof/Machine/Step.lean ====
section
/-! DEFINITION. One step of the core at the transaction level (R7): an accepted command, a reset, or a wait. -/

namespace Sys2Proof.Machine

/-- One step. The core has no program counter and fetches no instruction (R31, R62): the next command is the one the host
presents on the command channel. -/
def step (s : State) : Host.Outcome State Fault Refusal := runEvent s.nextEvent s

/-- The state with a command word presented at the coming step. A program comes to the core from outside only: the host
presents its words one by one (R31, log entry 6). -/
def State.withFetchWord (s : State) (nbits w : Nat) : State := s.present (tableCommand nbits w)

end Sys2Proof.Machine
end

