-- ==== Sys2Proof/Machine/Cycle.lean ====
section
/-! DEFINITION. The reference refinement of R200: the same core, one rising edge of CLK at a time, with the schedule in a
window of 16 words (R121). It uses the registers of State; only the phase and the window are its own. -/

namespace Sys2Proof.Machine

/-- Which compression is in flight: UPDATE's, the first of two of FINALIZE, or the last of FINALIZE. -/
inductive Job where
  | update
  | finalizeFirst
  | finalizeLast
  deriving DecidableEq, Repr

/-- The phases of R200. -/
inductive Phase where
  | idle
  | load (job : Job) (blk : Block)
  | round (job : Job)
  | ff (job : Job)
  | resp
  deriving DecidableEq, Repr

/-- The core inside a command: its registers, the phase, and the 16-word schedule window. -/
structure CycleState where
  core : State
  phase : Phase
  /-- the circular buffer of schedule words, indexed by t mod 16 (R121) -/
  window : Vector Word 16
  deriving DecidableEq, Repr

/-- CMD_READY: 1 in IDLE only (R71, R200). -/
def CycleState.cmdReady (c : CycleState) : Bool := c.phase == .idle

/-- DIGEST_VALID (R72). -/
def CycleState.digestValid (c : CycleState) : Bool := c.core.digestValid

/-- The window position t mod 16. -/
def windowIndex (t : Nat) : Fin 16 := ⟨t % 16, Nat.mod_lt _ (by decide)⟩

/-- W[t] from the window: for t < 16 the word loaded; for t ≥ 16 computed just before round t from W[t-2], W[t-7],
W[t-15] and W[t-16] (R121). -/
def windowWord (win : Vector Word 16) (t : Nat) : Word :=
  if t < 16 then win[windowIndex t]
  else
    schedWord win[windowIndex (t - 2)] win[windowIndex (t - 7)] win[windowIndex (t - 15)] win[windowIndex (t - 16)]

/-- The window after round t: W[t] stands over W[t-16], the only operand not needed again (R121). -/
def windowStep (win : Vector Word 16) (t : Nat) : Vector Word 16 := win.set (t % 16) (windowWord win t)

/-- The window LOAD leaves: W[0..15] from the block (R111). -/
def windowLoad (blk : Block) : Vector Word 16 := Vector.ofFn fun t => blockWord blk t.val t.isLt

/-- The window before round t of a compression of a block (R121). -/
def windowAfter (blk : Block) (t : Nat) : Vector Word 16 :=
  match t with
  | 0 => windowLoad blk
  | i + 1 => windowStep (windowAfter blk i) i

/-- IDLE, accepting a command (R200). UPDATE stores its byte; FINALIZE computes L and blk1. -/
def CycleState.accept (i : Instr) (c : CycleState) : CycleState :=
  match i with
  | .update b =>
    let t := c.core.writeBuf c.core.buflen b
    if c.core.buflen = 63 then { c with core := t, phase := .load .update t.bufBlock }
    else { c with core := t.writeBuflen (c.core.buflen + 1) }
  | .finalize =>
    if h : c.core.buflen.toNat ≤ 55 then { c with phase := .load .finalizeLast (c.core.padOne h) }
    else { c with phase := .load .finalizeFirst c.core.padFirst }

/-- LOAD: W[0..15] from blk, a..h <- H, i <- 0 (R200). -/
def CycleState.loadEdge (job : Job) (blk : Block) (c : CycleState) : CycleState :=
  { core := c.core.writeComp (c.core.comp.wvInit c.core.h), phase := .round job, window := windowLoad blk }

/-- ROUND: ROUND i with W[i] from the window, i += 1; on to FF once i = 64 (R200). -/
def CycleState.roundEdge (job : Job) (c : CycleState) : CycleState :=
  if h : c.core.comp.round.val < 64 then
    let i : Fin 64 := ⟨c.core.comp.round.val, h⟩
    { core := c.core.writeComp (c.core.comp.roundWith (windowWord c.window i.val) i)
      phase := if i.val = 63 then .ff job else .round job
      window := windowStep c.window i.val }
  else { c with phase := .ff job }

/-- FF: H <- FEED_FWD; then UPDATE completes, FINALIZE's first block is followed by blk2, and its last by RESP with the
digest of H on the response channel (R200). -/
def CycleState.ffEdge (job : Job) (c : CycleState) : CycleState :=
  let t := c.core.writeH c.core.comp.feedFwd
  match job with
  | .update => { c with core := (t.writeBitcnt (t.bitcnt + 512)).writeBuflen 0, phase := .idle }
  | .finalizeFirst => { c with core := t, phase := .load .finalizeLast t.padSecond }
  | .finalizeLast => { c with core := t.respond (digestOf t.h), phase := .resp }

/-- RESP: until the host takes the digest the core waits; when it does, S0 and IDLE (R200, R72, R196). -/
def CycleState.respEdge (ready : Bool) (c : CycleState) : CycleState :=
  if ready then { c with core := c.core.takeDigest.enterS0, phase := .idle } else c

/-- IDLE, one edge without reset: a command presented is accepted; a reserved word is refused (R71, R75, R200). -/
def CycleState.idleEdge (cmd : Option CmdWord) (c : CycleState) : Host.Outcome CycleState Fault Refusal :=
  match cmd with
  | none => .next c
  | some w =>
    match decode w with
    | .ok i => .next (c.accept i)
    | .error _ => .refused (.reservedCommand w)

/-- One rising edge of CLK. RST = 1 aborts whatever is in flight: S0, IDLE, no digest (R190, R198). -/
def CycleState.clock (d : HostDrive) (c : CycleState) : Host.Outcome CycleState Fault Refusal :=
  match c.core.refusalMark with
  | some w => .refused (.reservedCommand w)
  | none =>
    if d.rst then .next { c with core := c.core.resetEvent, phase := .idle }
    else
      match c.phase with
      | .idle => c.idleEdge d.cmd
      | .load job blk => .next (c.loadEdge job blk)
      | .round job => .next (c.roundEdge job)
      | .ff job => .next (c.ffEdge job)
      | .resp => .next (c.respEdge d.digestReady)

/-- The edges of a sequence of drives, up to the first refusal. -/
def CycleState.clocks (ds : List HostDrive) (c : CycleState) : Host.Outcome CycleState Fault Refusal :=
  match ds with
  | [] => .next c
  | d :: rest =>
    match c.clock d with
    | .next t => t.clocks rest
    | .fault f => .fault f
    | .refused r => .refused r

/-- A core between two commands, seen at the cycle level. -/
def CycleState.ofState (s : State) : CycleState := { core := s, phase := .idle, window := Vector.replicate 16 0 }

/-- What R200 compares at a command boundary: everything but the compressor's own registers, whose use is an
implementation's freedom (R121, R122). -/
def State.observed (s : State) : State := s.writeComp Compressor.reset

end Sys2Proof.Machine
end

