-- ==== Sys2Proof/Machine/Run.lean ====
section
/-! DEFINITION. Runs: a sequence of steps in which a refusal leaves the state unchanged and sets the refusal mark (R75). -/

namespace Sys2Proof.Machine

/-- The state after a step whatever its outcome: the next state; or, after Refused(word), the same state with the refusal
mark set (R75). -/
def State.afterStep (s : State) : State :=
  match step s with
  | .next t => t
  | .fault _ => s
  | .refused r => r.reservedWord?.elim s s.setRefusalMark

/-- The state after n steps, with the refusal mark kept for the rest of the run (R11). -/
def State.afterSteps (n : Nat) (s : State) : State :=
  match n with
  | 0 => s
  | k + 1 => s.afterStep.afterSteps k

/-- The drives of a host that presents these commands one after another and takes each digest at once. -/
def commandDrives (is : List Instr) : List HostDrive := is.map fun i => presentDrive (encode i)

end Sys2Proof.Machine
end

