-- ==== Sys2Proof/Machine/Instances.lean ====
section
/-! DEFINITION. Several instances of the core (R179): each owns its own state; they share only the constant ROMs, which are
no state. -/

namespace Sys2Proof.Machine

/-- A step of instance number j among several: only its own state takes part (R179). R179 does not say what the refusal of a
reserved word at one instance is for the others. DESIGN CHOICE: this step is refused as a whole, with that instance's
refusal, and `afterInstance` says how the others go on (log entry 22). -/
def stepInstance (j : Nat) (cores : List State) : Option (Host.Outcome (List State) Fault Refusal) :=
  (cores[j]?).map fun s =>
    match step s with
    | .next t => .next (cores.set j t)
    | .fault f => .fault f
    | .refused r => .refused r

/-- The instances after a step of number j, whatever its outcome. DESIGN CHOICE: a refusal marks the run of that instance
alone, which keeps its state and the mark (R75), and the runs of the others go on (log entry 22). -/
def afterInstance (j : Nat) (cores : List State) : List State := cores.modify j State.afterStep

end Sys2Proof.Machine
end

