-- ==== Sys2Proof/Machine/Message.lean ====
section
/-! DEFINITION. What the command streams compute, said without the core's registers: the fold of UPDATE (R141), the padded
message (R151), its blocks, and the digest of a message as the chain of their compressions (R123, R148). -/

namespace Sys2Proof.Machine

/-- `Upd*(S, bytes)`, the fold of UPDATE over a byte sequence (R141). -/
def State.updates (bs : List Byte) (s : State) : State := bs.foldl (fun t b => t.update b) s

/-- The number of zero bytes of the padding: the least k with |M| + 1 + k ≡ 56 (mod 64) (R151). -/
def padZeros (n : Nat) : Nat := (119 - n % 64) % 64

/-- The padded message `M ++ [0x80] ++ zeros(k) ++ BEbytes_8(8·|M| mod 2^64)` (R151). -/
def padMessage (m : List Byte) : List Byte :=
  m ++ [0x80] ++ zeros (padZeros m.length) ++ beBytes 8 (BitVec.ofNat 64 (8 * m.length))

/-- Block number j of a byte sequence: its bytes 64j to 64j + 63 (R51). It is asked for only where the sequence has
them. -/
def blockAt (l : List Byte) (j : Nat) : Block := Vector.ofFn fun i => l.getD (64 * j + i.val) 0

/-- The full blocks of a byte sequence, in order (R51, R56). -/
def fullBlocks (l : List Byte) : List Block := (List.range (l.length / 64)).map (blockAt l)

/-- The chain of compressions of a list of blocks: each takes as Hin the Hout of the one before (R123). -/
def chain (hin : HashState) (blks : List Block) : HashState := blks.foldl compress hin

/-- `SHA256(M)`: the chain of the padded message's blocks from IV, as a digest (R147, R148, R151). -/
def sha256 (m : List Byte) : Digest := digestOf (chain iv (fullBlocks (padMessage m)))

/-- A state represents the message bytes accepted since the last FINALIZE or reset: N = |M| / 64 blocks are compressed
into H and counted in BITCNT, and the last |M| mod 64 bytes are pending (R27). -/
structure State.Represents (s : State) (m : List Byte) : Prop where
  h : s.h = chain iv (fullBlocks m)
  buflen : s.buflen.toNat = m.length % 64
  bitcnt : s.bitcnt = BitVec.ofNat 64 (512 * (m.length / 64))
  pending : s.pending = m.drop (64 * (m.length / 64))

/-- The message bytes accepted since the last FINALIZE or reset, after one more step (R27): UPDATE appends its byte, FINALIZE
and reset start a new message, and a wait changes nothing. -/
def messageAfter (e : Event) (m : List Byte) : List Byte :=
  match e with
  | .accept (.update b) _ => m ++ [b]
  | .accept .finalize _ => []
  | .reset => []
  | .marked _ => m
  | .quiet => m
  | .take => m
  | .hold => m
  | .idle => m
  | .reserved _ => m

/-- The compressions that a byte sequence takes, byte by byte (R150). -/
def State.updateCompressions (bs : List Byte) (s : State) : Nat :=
  match bs with
  | [] => 0
  | b :: rest => compressions (.update b) s + (s.update b).updateCompressions rest

end Sys2Proof.Machine
end

