-- ==== Sys2Proof/Safety.lean ====
section
/-! DEFINITION. The terms in which claims speak of a run: the invariant of the command boundaries (R27, R34), the host's
obligations (R194, R196), and a run without a refusal. -/

namespace Sys2Proof

open Sys2Proof.Machine

/-- The invariant at every command boundary: BITCNT is a multiple of 512 (R27), and, as the model has it, while a digest
waits the core is already in S0 (R147, log entry 1). That BUFLEN is at most 63 is its type. -/
structure Inv (s : State) : Prop where
  bitcnt : s.bitcnt.toNat % 512 = 0
  waiting : s.response.isSome → s.isS0

/-- R194: a command presented while CMD_READY = 0 stands on CMD again at the next edge. DESIGN CHOICE: it binds the host at
edges with RST = 0 alone; R194 says "until the core accepts the command" and does not say whether a command presented at an
edge with RST = 1, where it is not accepted (R175), must be held over that edge, and here it need not be (log entry 23). -/
def HoldsCommand (s : State) : Prop :=
  ∀ d e rest, s.drives = d :: e :: rest → s.cmdReady = false → d.rst = false → d.cmd.isSome → e.cmd = d.cmd

/-- R196: the host takes a digest that is offered at some later edge, or resets. -/
def TakesDigest (s : State) : Prop :=
  s.digestValid = true → ∃ d ∈ s.drives, d.digestReady = true ∨ d.rst = true

/-- A run of n steps in which no reserved word is accepted: the runs the model gives a meaning (R11). -/
def RunsUnrefused (n : Nat) (s : State) : Prop := ∃ t : State, Host.Core.run core n s = .next t

/-- Two states that agree in everything a rule reads: the tuple of R20 with the pending bytes for BUF. The stale bytes of
BUF and the compressor's registers may differ (R23, R28). -/
structure SameArchitecture (s t : State) : Prop where
  h : s.h = t.h
  buflen : s.buflen = t.buflen
  bitcnt : s.bitcnt = t.bitcnt
  pending : s.pending = t.pending

/-- Two states that differ at most in the stale bytes of BUF and in the compressor's registers (R23, R28), and in the
counter of the free values, which is the model's own (log entry 4): the architecture, the response channel, the refusal mark
and the environment agree. -/
structure SameButStale (s t : State) : Prop extends SameArchitecture s t where
  response : s.response = t.response
  refusalMark : s.refusalMark = t.refusalMark
  drives : s.drives = t.drives
  delivered : s.delivered = t.delivered

end Sys2Proof
end

