-- ==== Sys2Proof/Certificates/Slice0/Obligations.lean ====
section
/-! DEFINITION. The statements about the model, for the provers. Each docstring names the rule of spec/ it formalises. -/

open Sys2Proof Sys2Proof.Machine

/-! ### Encoding -/

/-- The decoder vectors of section 3.5 of spec/95_test_vectors.md, each word written out there. -/
def Obligations.DecodeOfSpecWords : Prop :=
  decode 0x0100 = .ok (.update 0x00) ∧ decode 0x0161 = .ok (.update 0x61) ∧ decode 0x01ff = .ok (.update 0xff) ∧
  decode 0x0200 = .ok .finalize ∧ decode 0x0201 = .error (.reserved 0x0201) ∧
  decode 0x0000 = .error (.reserved 0x0000) ∧ decode 0x0300 = .error (.reserved 0x0300) ∧
  decode 0xffff = .error (.reserved 0xffff)

/-- R74: UPDATE has match 0x0100 and mask 0xFF00, FINALIZE match 0x0200 and mask 0xFFFF, and every other word is
reserved. The decoder reads fields; this statement reads masks. -/
def Obligations.DecodeAgreesWithMatchAndMask : Prop :=
  ∀ w : CmdWord,
    (∀ b : Byte, decode w = .ok (.update b) ↔ w &&& 0xFF00 = 0x0100 ∧ b = w.setWidth 8) ∧
    (decode w = .ok .finalize ↔ w &&& 0xFFFF = 0x0200) ∧
    (decode w = .error (.reserved w) ↔ w &&& 0xFF00 ≠ 0x0100 ∧ w &&& 0xFFFF ≠ 0x0200)

/-- R73, R74, R76, R81: decoding an encoded command gives it back, no word but its encoding decodes to a command, and the
encoding has the OP field in bits 15:8 and the DATA field in bits 7:0. -/
def Obligations.EncodeDecodeRoundTrip : Prop :=
  (∀ i : Instr, i.wf = true → decode (encode i) = .ok i ∧ encode i = i.fields.word) ∧
  (∀ (w : CmdWord) (i : Instr), decode w = .ok i → encode i = w)

/-- R81 and R82: a well-formed statement assembles to the words of its expansion, an imm8 outside 0..255 is an assembly
error, and only `.word` can give a reserved word. An operand's value is its number, or the ASCII code of its character. That
every other ill-formed statement (a character that is not ASCII, a `.word` of 65536 or more, a whole line with one such
operand) is an error too is the model's choice (log entry 18, DESIGN CHOICE). -/
def Obligations.AssemblerExpansions : Prop :=
  (∀ a : Asm, a.wf = false → assemble a = .error (.illFormed a)) ∧
  (∀ n, 256 ≤ n → assemble (.update (.num n)) = .error (.illFormed (.update (.num n)))) ∧
  (∀ b : Imm, b.wf = true → assemble (.update b) = .ok [BitVec.ofNat 16 (256 + b.value)]) ∧
  assemble .finalize = .ok [0x0200] ∧
  (∀ bs : List Imm, (∀ b ∈ bs, b.wf = true) →
    assemble (.updateBytes bs) = .ok (bs.map fun b => BitVec.ofNat 16 (256 + b.value))) ∧
  (∀ s : List Char, (∀ c ∈ s, c.toNat < 128) →
    assemble (.updateStr s) = .ok (s.map fun c => BitVec.ofNat 16 (256 + c.toNat)) ∧
    assemble (.hash s) = .ok ((s.map fun c => BitVec.ofNat 16 (256 + c.toNat)) ++ [0x0200])) ∧
  (∀ (b : Imm) (n : Nat), b.wf = true →
    assemble (.updateFill b n) = .ok (List.replicate n (BitVec.ofNat 16 (256 + b.value)))) ∧
  (∀ w, w < 65536 → assemble (.rawWord w) = .ok [BitVec.ofNat 16 w]) ∧
  (∀ (a : Asm) (ws : List CmdWord), assemble a = .ok ws →
    (∃ w, a = .rawWord w) ∨ ∀ x ∈ ws, ∃ i, decode x = .ok i)

/-! ### The step: handshakes, refusal, reset -/

/-- R71, R60: a word presented at an edge with RST = 0 and CMD_READY = 1, in a run without a refusal mark, is accepted, and
the step is `exec` of the command it decodes to, from the state with that drive used. That the DIGEST_READY of the accepting
drive also takes FINALIZE's digest in the same step is the model's choice (log entry 21, DESIGN CHOICE), and so is that
`withFetchWord` presents a word in a state with no waiting digest and no mark (log entry 6, DESIGN CHOICE). -/
def Obligations.StepRunsDecodedCommand : Prop :=
  (∀ (s : State) (d : HostDrive) (rest : List HostDrive) (w : CmdWord) (i : Instr),
    s.refusalMark = none → s.drives = d :: rest → d.rst = false → d.cmd = some w → s.cmdReady = true → decode w = .ok i →
    ∃ t, exec i { s with drives := rest } = .next t ∧ step s = .next (if d.digestReady then t.takeDigest else t)) ∧
  (∀ (s : State) (i : Instr),
    ∃ t, exec i { s with response := none, refusalMark := none } = .next t ∧
      step (s.withFetchWord 16 (encode i).toNat) = .next t.takeDigest)

/-- R75, R11: a step that accepts a word the decoder rejects is refused with the word; the state is unchanged but for the
refusal mark. That every later step is refused whatever the host drives, RST = 1 among it, is the model's reading of "for the
rest of the run" (log entry 9, DEDUCED). -/
def Obligations.ReservedWordIsRefused : Prop :=
  ∀ (s : State) (d : HostDrive) (rest : List HostDrive) (w : CmdWord),
    s.refusalMark = none → s.drives = d :: rest → d.rst = false → d.cmd = some w → s.cmdReady = true →
    decode w = .error (.reserved w) →
    step s = .refused (.reservedCommand w) ∧
    ∀ n, s.afterSteps (n + 1) = { s with refusalMark := some w } ∧
      step (s.afterSteps (n + 1)) = .refused (.reservedCommand w)

/-- R175 and R190: with RST = 1, in every state without a refusal mark and whatever command is presented, the step leaves S0
with no digest offered, and the command presented is not accepted. Two clauses are the model's reading: a digest that waits
is not delivered even where DIGEST_READY = 1 at the same edge (log entry 11, DEDUCED), and CMD_READY is 1 right after the
step (log entry 8, DEDUCED). -/
def Obligations.ResetHasPriority : Prop :=
  ∀ (s : State) (d : HostDrive) (rest : List HostDrive),
    s.refusalMark = none → s.drives = d :: rest → d.rst = true →
    ∃ t, step s = .next t ∧ t.isS0 ∧ t.digestValid = false ∧ t.cmdReady = true ∧ t.delivered = s.delivered ∧
      t.drives = rest ∧ t.refusalMark = none

/-- R191: reset and FINALIZE leave the same S0; reset delivers no digest and offers none, FINALIZE offers one. -/
def Obligations.ResetAndFinalizeLeaveS0 : Prop :=
  ∀ s : State, ∃ t, exec .finalize s = .next t ∧ t.isS0 ∧ s.resetEvent.isS0 ∧
    t.digestValid = true ∧ s.resetEvent.digestValid = false ∧ s.resetEvent.delivered = s.delivered

/-- R72: a digest offered is taken at an edge with DIGEST_READY = 1: DIGEST_VALID falls to 0, the host has the digest, the
core keeps no copy and is ready again. That nothing else changes at this edge is the model's: FINALIZE entered S0 in its
accepting step (log entry 1, DEDUCED), where R200 enters it here. -/
def Obligations.OfferedDigestIsTaken : Prop :=
  ∀ (s : State) (d : HostDrive) (rest : List HostDrive) (dg : Digest),
    s.refusalMark = none → s.drives = d :: rest → d.rst = false → d.digestReady = true → s.response = some dg →
    step s = .next { s with drives := rest, response := none, delivered := s.delivered ++ [dg] }

/-- R196: for as long as the host neither takes the digest nor resets, whatever it drives afterwards and whatever commands it
presents, the core waits: the digest stays offered, CMD_READY stays 0, and no register changes; so forever, for a host that
never does. A host that waits any number of edges and then takes the digest has the digest that was offered; that nothing
else changes at that edge is the model's (log entry 1, DEDUCED). A reset ends the wait; that CMD_READY is 1 right after the
reset step is the model's reading (log entry 8, DEDUCED). -/
def Obligations.UntakenDigestHangs : Prop :=
  (∀ (s : State) (n : Nat),
    s.refusalMark = none → s.digestValid = true →
    (∀ d ∈ s.drives.take n, d.rst = false ∧ d.digestReady = false) →
    Host.Core.run core n s = .next { s with drives := s.drives.drop n } ∧
    ({ s with drives := s.drives.drop n } : State).cmdReady = false) ∧
  (∀ (s : State) (n : Nat),
    s.refusalMark = none → s.digestValid = true → ¬ TakesDigest s →
    Host.Core.run core n s = .next { s with drives := s.drives.drop n }) ∧
  (∀ (s : State) (ws : List HostDrive) (d : HostDrive) (rest : List HostDrive) (dg : Digest),
    s.refusalMark = none → s.response = some dg → s.drives = ws ++ d :: rest →
    (∀ e ∈ ws, e.rst = false ∧ e.digestReady = false) → d.rst = false → d.digestReady = true →
    Host.Core.run core (ws.length + 1) s =
      .next { s with drives := rest, response := none, delivered := s.delivered ++ [dg] }) ∧
  (∀ (s : State) (d : HostDrive) (rest : List HostDrive),
    s.refusalMark = none → s.digestValid = true → s.drives = d :: rest → d.rst = true →
    ∃ t, step s = .next t ∧ t.digestValid = false ∧ t.cmdReady = true)

/-- R194: a command presented while CMD_READY = 0, by a host that holds it, is neither lost nor executed early: the step
changes no register, the command stands at the next edge, and once the digest is taken it is the next to be accepted. That no
register changes also at the edge that takes the digest (DIGEST_READY = 1) is the model's (log entry 1, DEDUCED), where R200
enters S0 there. -/
def Obligations.HeldCommandWaits : Prop :=
  ∀ (s : State) (d e : HostDrive) (rest : List HostDrive) (w : CmdWord),
    s.refusalMark = none → s.cmdReady = false → s.drives = d :: e :: rest → d.rst = false → d.cmd = some w →
    HoldsCommand s →
    ∃ t, step s = .next t ∧ t.drives = e :: rest ∧ e.cmd = some w ∧
      t.h = s.h ∧ t.buf = s.buf ∧ t.buflen = s.buflen ∧ t.bitcnt = s.bitcnt ∧ t.comp = s.comp ∧
      (d.digestReady = true → e.rst = false → t.nextEvent = acceptEvent w e.digestReady) ∧
      (d.digestReady = false → t.response = s.response)

/-- R183: between commands the core is idle with CMD_READY = 1 and keeps its registers: any number of steps at which no
command is presented and no reset is driven, whatever the host drives afterwards, changes nothing but the use of the
drives. -/
def Obligations.IdleKeepsState : Prop :=
  ∀ (s : State) (n : Nat),
    s.refusalMark = none → s.response = none → (∀ d ∈ s.drives.take n, d.rst = false ∧ d.cmd = none) →
    Host.Core.run core n s = .next { s with drives := s.drives.drop n } ∧
    ({ s with drives := s.drives.drop n } : State).cmdReady = true

/-- R170: no command and no step has a fault outcome, every command has a next state from every state, and every sequence
of the two commands runs to its end without a refusal. -/
def Obligations.NoExceptionForAnyCommandSequence : Prop :=
  (∀ (s : State) (f : Fault), step s ≠ .fault f) ∧
  (∀ (i : Instr) (s : State), ∃ t, exec i s = .next t) ∧
  (∀ (is : List Instr) (rest : List HostDrive) (s : State),
    s.refusalMark = none → s.response = none → s.drives = commandDrives is ++ rest → RunsUnrefused is.length s)

/-! ### UPDATE -/

/-- R140: UPDATE from every state. Below 63 pending bytes the byte goes to BUF[BUFLEN] and BUFLEN grows by one, and nothing
else changes; at 63 the block of the 63 pending bytes and the new one is compressed into H, BITCNT grows by 512 modulo
2^64, BUFLEN is 0, and nothing else changes but the compressor's registers, which are no architectural state (R20). -/
def Obligations.UpdateEffect : Prop :=
  ∀ (b : Byte) (s : State),
    (s.buflen ≠ 63 →
      exec (.update b) s =
        .next { s with buf := s.buf.set s.buflen.toNat b s.buflen.isLt, buflen := s.buflen + 1 }) ∧
    (s.buflen = 63 →
      ∃ c : Compressor, exec (.update b) s =
        .next { s with
          buf := s.buf.set 63 b, h := compress s.h (s.buf.set 63 b), bitcnt := s.bitcnt + 512, buflen := 0, comp := c })

/-- R140, R58: what UPDATE leaves unchanged: every byte of BUF but BUF[BUFLEN]; H and BITCNT where the buffer does not fill;
the response channel, the refusal mark and the environment. The compressor's registers are no architectural state (R20)
and change only where a block is compressed. -/
def Obligations.UpdateFrame : Prop :=
  ∀ (b : Byte) (s t : State), exec (.update b) s = .next t →
    (∀ j : BitVec 6, j ≠ s.buflen → t.readBuf j = s.readBuf j) ∧
    (s.buflen ≠ 63 → t.h = s.h ∧ t.bitcnt = s.bitcnt ∧ t.comp = s.comp) ∧
    t.response = s.response ∧ t.refusalMark = s.refusalMark ∧ t.drives = s.drives ∧ t.delivered = s.delivered ∧
    t.freeCount = s.freeCount

/-- R23, R140: UPDATE appends its byte to the pending bytes; with 63 pending, the block compressed is those bytes followed
by the new one, and none is pending after. -/
def Obligations.UpdateAppendsToPending : Prop :=
  ∀ (b : Byte) (s : State), ∃ t, exec (.update b) s = .next t ∧
    (s.buflen ≠ 63 → t.pending = s.pending ++ [b]) ∧
    (s.buflen = 63 → t.pending = [] ∧ ∃ blk : Block, blk.toList = s.pending ++ [b] ∧ t.h = compress s.h blk)

/-- R173: the wrap of BITCNT from 2^64 - 512 to 0 is no exception and no signal: the step completes, and nothing of the
response channel, the refusal mark or the environment tells of it. -/
def Obligations.BitCounterWrapsSilently : Prop :=
  ∀ (b : Byte) (s : State), s.buflen = 63 → s.bitcnt.toNat = 2 ^ 64 - 512 →
    ∃ t, exec (.update b) s = .next t ∧ t.bitcnt = 0 ∧ t.response = s.response ∧ t.refusalMark = s.refusalMark ∧
      t.delivered = s.delivered

/-! ### FINALIZE -/

/-- R144 to R147, R53: FINALIZE from every state: the padded one or two blocks, byte for byte, are compressed from H, the
digest of the result stands on the response channel, and the core is in S0. Byte 56 + k of the last block is
L[63-8k : 56-8k], for k = 0..7. -/
def Obligations.FinalizeEffect : Prop :=
  ∀ s : State, ∃ t, exec .finalize s = .next t ∧ t.isS0 ∧
    (s.buflen.toNat ≤ 55 →
      ∃ blk1 : Block,
        blk1.toList.take 56 = s.buf.toList.take s.buflen.toNat ++ [0x80] ++ List.replicate (55 - s.buflen.toNat) 0 ∧
        (∀ (k : Nat) (hk : k < 8), blk1[56 + k] =
          (s.bitcnt + BitVec.ofNat 64 (8 * s.buflen.toNat)).extractLsb' (56 - 8 * k) 8) ∧
        t.response = some (digestOf (compress s.h blk1))) ∧
    (56 ≤ s.buflen.toNat →
      ∃ blk1 blk2 : Block,
        blk1.toList = s.buf.toList.take s.buflen.toNat ++ [0x80] ++ List.replicate (63 - s.buflen.toNat) 0 ∧
        blk2.toList.take 56 = List.replicate 56 0 ∧
        (∀ (k : Nat) (hk : k < 8), blk2[56 + k] =
          (s.bitcnt + BitVec.ofNat 64 (8 * s.buflen.toNat)).extractLsb' (56 - 8 * k) 8) ∧
        t.response = some (digestOf (compress (compress s.h blk1) blk2)))

/-- R147, R58: what FINALIZE leaves unchanged: it writes H, BUFLEN, BITCNT, the response channel and BUF's unspecified
bytes; the refusal mark, the digests taken before and the host's drives stay. -/
def Obligations.FinalizeFrame : Prop :=
  ∀ s t : State, exec .finalize s = .next t →
    t.refusalMark = s.refusalMark ∧ t.drives = s.drives ∧ t.delivered = s.delivered

/-- R144: at a command boundary the length field is exact, with no carry out of bit 63, and for a state that represents a
message M it is 8·|M| mod 2^64. -/
def Obligations.LengthFieldNeverCarries : Prop :=
  (∀ s : State, Inv s →
    s.messageBits.toNat = s.bitcnt.toNat + 8 * s.buflen.toNat ∧ 8 * s.buflen.toNat ≤ 504) ∧
  (∀ (s : State) (m : List Byte), s.Represents m → s.messageBits = BitVec.ofNat 64 (8 * m.length))

/-- R149: from S0, whatever the unspecified bytes of BUF and the compressor's registers are, FINALIZE delivers the digest
of the empty message; so does a second FINALIZE directly after any FINALIZE. -/
def Obligations.FinalizeFromS0DeliversEmptyDigest : Prop :=
  (∀ s : State, s.isS0 → ∃ t, exec .finalize s = .next t ∧
    t.response = some 0xe3b0c44298fc1c149afbf4c8996fb92427ae41e4649b934ca495991b7852b855) ∧
  (∀ s : State, ∃ t u, exec .finalize s = .next t ∧ exec .finalize t.takeDigest = .next u ∧
    u.response = some 0xe3b0c44298fc1c149afbf4c8996fb92427ae41e4649b934ca495991b7852b855)

/-! ### The compressor -/

/-- R101 and R102: bit k of rotr(x, n) is bit (k + n) mod 32 of x for the amounts 1..31, and x >> n is the floor of
x / 2^n. -/
def Obligations.RotateAndShiftBits : Prop :=
  (∀ (x : Word) (n k : Nat), 1 ≤ n → n ≤ 31 → k < 32 → (rotr x n).getLsbD k = x.getLsbD ((k + n) % 32)) ∧
  (∀ (x : Word) (n : Nat), (shr x n).toNat = x.toNat / 2 ^ n)

/-- R104 to R107: each of the four sigma functions bit by bit, with the amounts of its rule (a rotation takes bit
(k + n) mod 32, R101; a shift brings in 0 bits, R102); each is linear over xor, and takes the corner values the rules
give. -/
def Obligations.SigmaFunctionsLinear : Prop :=
  (∀ (x : Word) (k : Nat), k < 32 →
    (sig0 x).getLsbD k = (x.getLsbD ((k + 7) % 32) ^^ x.getLsbD ((k + 18) % 32) ^^
      (if k + 3 < 32 then x.getLsbD (k + 3) else false)) ∧
    (sig1 x).getLsbD k = (x.getLsbD ((k + 17) % 32) ^^ x.getLsbD ((k + 19) % 32) ^^
      (if k + 10 < 32 then x.getLsbD (k + 10) else false)) ∧
    (bsig0 x).getLsbD k =
      (x.getLsbD ((k + 2) % 32) ^^ x.getLsbD ((k + 13) % 32) ^^ x.getLsbD ((k + 22) % 32)) ∧
    (bsig1 x).getLsbD k =
      (x.getLsbD ((k + 6) % 32) ^^ x.getLsbD ((k + 11) % 32) ^^ x.getLsbD ((k + 25) % 32))) ∧
  (∀ x y : Word, sig0 (x ^^^ y) = sig0 x ^^^ sig0 y ∧ sig1 (x ^^^ y) = sig1 x ^^^ sig1 y ∧
    bsig0 (x ^^^ y) = bsig0 x ^^^ bsig0 y ∧ bsig1 (x ^^^ y) = bsig1 x ^^^ bsig1 y) ∧
  sig0 0xFFFFFFFF = 0x1FFFFFFF ∧ sig1 0xFFFFFFFF = 0x003FFFFF ∧
  bsig0 0xFFFFFFFF = 0xFFFFFFFF ∧ bsig1 0xFFFFFFFF = 0xFFFFFFFF

/-- R108 and R109: bit by bit, Ch is y where x is 1 and z where x is 0, and Maj is the majority of the three. -/
def Obligations.ChooseAndMajorityPerBit : Prop :=
  ∀ (x y z : Word) (k : Nat), k < 32 →
    (ch x y z).getLsbD k = (if x.getLsbD k then y.getLsbD k else z.getLsbD k) ∧
    (maj x y z).getLsbD k =
      decide (2 ≤ (x.getLsbD k).toNat + (y.getLsbD k).toNat + (z.getLsbD k).toNat)

/-- R111 and R112: after a compression of any block from any registers, the 64 schedule words are the block's 16 big-endian
words and then the recurrence. -/
def Obligations.ScheduleWords : Prop :=
  ∀ (c : Compressor) (hin : HashState) (blk : Block),
    (∀ (t : Nat) (ht : t < 16),
      (c.run hin blk).w[t] = be32 blk[4 * t] blk[4 * t + 1] blk[4 * t + 2] blk[4 * t + 3]) ∧
    (∀ (t : Nat) (ht : 16 ≤ t) (ht' : t < 64),
      (c.run hin blk).w[t] =
        sig1 (c.run hin blk).w[t - 2] + (c.run hin blk).w[t - 7] + sig0 (c.run hin blk).w[t - 15] +
          (c.run hin blk).w[t - 16])

/-- R113, R114 to R118: the working variables start from Hin, each of the 64 rounds i makes the simultaneous assignment
with K[i] and W[i], the round index ends at 64, and the result is the word by word sum with Hin. -/
def Obligations.RoundsAndFeedForward : Prop :=
  ∀ (c : Compressor) (hin : HashState) (blk : Block),
    ∃ v : Nat → WorkVars,
      v 0 = ⟨hin[0], hin[1], hin[2], hin[3], hin[4], hin[5], hin[6], hin[7]⟩ ∧
      (∀ (i : Nat) (hi : i < 64),
        let t1 := (v i).h + bsig1 (v i).e + ch (v i).e (v i).f (v i).g + roundK[i] + (c.run hin blk).w[i]
        let t2 := bsig0 (v i).a + maj (v i).a (v i).b (v i).c
        v (i + 1) = ⟨t1 + t2, (v i).a, (v i).b, (v i).c, (v i).d + t1, (v i).e, (v i).f, (v i).g⟩) ∧
      (c.run hin blk).round.val = 64 ∧
      (c.run hin blk).feedFwd =
        #v[hin[0] + (v 64).a, hin[1] + (v 64).b, hin[2] + (v 64).c, hin[3] + (v 64).d,
           hin[4] + (v 64).e, hin[5] + (v 64).f, hin[6] + (v 64).g, hin[7] + (v 64).h]

/-- R121: the 16-word circular window gives every round the same W[t] as the 64-word schedule. -/
def Obligations.ScheduleWindowEquivalent : Prop :=
  ∀ (c : Compressor) (hin : HashState) (blk : Block) (t : Nat) (ht : t < 64),
    windowWord (windowAfter blk t) t = (c.run hin blk).w[t]

/-- R54 and R79: byte 4j + k of the digest is bits [31-8k : 24-8k] of word j, and the DIGEST port is
Hf[0] ++ Hf[1] ++ ... ++ Hf[7] with Hf[0] in bits 255:224. -/
def Obligations.DigestByteOrder : Prop :=
  ∀ hf : HashState,
    (∀ (j k : Nat) (hj : j < 8) (hk : k < 4),
      digestByte (digestOf hf) ⟨4 * j + k, by omega⟩ = hf[j].extractLsb' (24 - 8 * k) 8 ∧
      (digestBytes hf)[4 * j + k]? = some (hf[j].extractLsb' (24 - 8 * k) 8)) ∧
    digestOf hf = hf[0] ++ hf[1] ++ hf[2] ++ hf[3] ++ hf[4] ++ hf[5] ++ hf[6] ++ hf[7]

/-- R152: Hex(D) has 64 characters; byte k gives character 2k from its high nibble and 2k + 1 from its low nibble, in the
lowercase digits. -/
def Obligations.HexRendering : Prop :=
  ∀ d : Digest, (hex d).length = 64 ∧
    ∀ k : Fin 32,
      (hex d)[2 * k.val]? =
        ['0', '1', '2', '3', '4', '5', '6', '7', '8', '9', 'a', 'b', 'c', 'd', 'e', 'f'][(digestByte d k).toNat / 16]? ∧
      (hex d)[2 * k.val + 1]? =
        ['0', '1', '2', '3', '4', '5', '6', '7', '8', '9', 'a', 'b', 'c', 'd', 'e', 'f'][(digestByte d k).toNat % 16]?

/-! ### Laws of the command stream -/

/-- R80, R141 to R143: a host that feeds a byte sequence over the command channel in any number of chunks, empty ones among
them, one UPDATE command per byte, brings the core to the fold of UPDATE over the whole sequence: the state does not depend on
how the sequence is split. In particular two chunks do what their concatenation does, and an empty update takes no step and
changes nothing. -/
def Obligations.ChunkingInvariance : Prop :=
  (∀ (chunks : List (List Byte)) (rest : List HostDrive) (s : State),
    s.refusalMark = none → s.response = none →
    s.drives = commandDrives (chunks.flatMap updateCommands) ++ rest →
    Host.Core.run core chunks.flatten.length s = .next { s.updates chunks.flatten with drives := rest }) ∧
  (∀ (b1 b2 : List Byte) (rest : List HostDrive) (s : State),
    s.refusalMark = none → s.response = none →
    s.drives = commandDrives (updateCommands b1 ++ updateCommands b2) ++ rest →
    Host.Core.run core (b1.length + b2.length) s = .next { s.updates (b1 ++ b2) with drives := rest })

/-- R151, R53: the padded message: its length is a multiple of 64, the zero fill is the least with |M| + 1 + k ≡ 56
(mod 64), the message, the byte 0x80 and the zeros come first, the last eight bytes are those of L = 8·|M| mod 2^64 with
L[63:56] first, and its blocks concatenated in order are exactly the padded message. -/
def Obligations.PaddedMessageShape : Prop :=
  ∀ m : List Byte,
    (padMessage m).length % 64 = 0 ∧
    (m.length + 1 + padZeros m.length) % 64 = 56 ∧
    (∀ k, (m.length + 1 + k) % 64 = 56 → padZeros m.length ≤ k) ∧
    (padMessage m).take (m.length + 1 + padZeros m.length) = m ++ [0x80] ++ List.replicate (padZeros m.length) 0 ∧
    (∀ k, k < 8 → (padMessage m)[m.length + 1 + padZeros m.length + k]? =
      some ((BitVec.ofNat 64 (8 * m.length)).extractLsb' (56 - 8 * k) 8)) ∧
    (fullBlocks (padMessage m)).flatMap Vector.toList = padMessage m

/-- R148, R151: for every message, feeding it byte by byte from S0 and finalizing delivers the digest of the chain of
compressions over the padded message's blocks, and leaves S0: whatever the unspecified bytes of BUF and the compressor's
registers were. -/
def Obligations.StreamComputesSha256 : Prop :=
  ∀ (s : State) (m : List Byte), s.isS0 →
    ∃ t, exec .finalize (s.updates m) = .next t ∧ t.response = some (sha256 m) ∧ t.isS0

/-- R148: a run of messages, each ended by FINALIZE, through the command channel of the core, delivers SHA256 of each in
turn, independently of the earlier ones, and ends in S0. That each digest is delivered in the step that accepts its FINALIZE,
one step for each command, is the model's choice (log entry 21, DESIGN CHOICE). -/
def Obligations.RunDeliversEachDigest : Prop :=
  ∀ (ms : List (List Byte)) (rest : List HostDrive) (s : State),
    s.isS0 → s.refusalMark = none → s.response = none →
    s.drives = commandDrives (ms.flatMap messageCommands) ++ rest →
    ∃ t : State, Host.Core.run core (ms.flatMap messageCommands).length s = .next t ∧
      t.delivered = s.delivered ++ ms.map sha256 ∧ t.drives = rest ∧ t.isS0 ∧ t.response = none

/-- R147, R148: a step that accepts FINALIZE in a state that represents the message M offers SHA256(M), and where
DIGEST_READY = 1 the host has it after the step (log entry 21); whatever happened before in the run, however late the host
took the digests before. -/
def Obligations.FinalizeStepDeliversMessageDigest : Prop :=
  ∀ (s : State) (m : List Byte) (ready : Bool), s.Represents m → s.nextEvent = .accept .finalize ready →
    ∃ t, step s = .next t ∧ t.isS0 ∧ t.drives = s.drives.tail ∧
      (ready = true → t.response = none ∧ t.delivered = s.delivered ++ [sha256 m]) ∧
      (ready = false → t.response = some (sha256 m) ∧ t.delivered = s.delivered)

/-- R150: a message of |M| bytes takes |M| / 64 compressions by UPDATE and one or two by FINALIZE,
(|M| + 8) / 64 + 1 in all. -/
def Obligations.CompressionCount : Prop :=
  ∀ (s : State) (m : List Byte), s.isS0 →
    s.updateCompressions m = m.length / 64 ∧
    compressions .finalize (s.updates m) = (if m.length % 64 ≤ 55 then 1 else 2) ∧
    s.updateCompressions m + compressions .finalize (s.updates m) = (m.length + 8) / 64 + 1

/-! ### Invariants and whole-machine rules -/

/-- R34, R192: the launch state is S0 with nothing in flight; it meets the invariant and represents the empty message. -/
def Obligations.LaunchStateMeetsInvariant : Prop :=
  State.reset.isS0 ∧ State.reset.cmdReady = true ∧ State.reset.digestValid = false ∧ Inv State.reset ∧
    State.reset.Represents []

/-- R27: every step of the core keeps the invariant of the command boundaries. The invariant's clause that a waiting digest
implies S0 is the model's: FINALIZE enters S0 in its accepting step and lets its digest wait after (log entry 1, DEDUCED),
where the refinement of R200 keeps the final hash state in H until the digest is taken. -/
def Obligations.StepKeepsBoundaryInvariant : Prop :=
  ∀ s t : State, Inv s → step s = .next t → Inv t

/-- R27: every step keeps what the registers say of the message: H, BUFLEN, BITCNT and the pending bytes are those of the
bytes accepted since the last FINALIZE or reset. -/
def Obligations.StepKeepsRepresentedMessage : Prop :=
  ∀ (s t : State) (m : List Byte), s.Represents m → step s = .next t → t.Represents (messageAfter s.nextEvent m)

/-- R21, R25: the only writers. A step changes H only by the compression of an UPDATE that completes a block, by FINALIZE,
or by reset; and BITCNT only in the same steps. -/
def Obligations.OnlyWritersOfHashStateAndCounter : Prop :=
  ∀ s t : State, step s = .next t →
    (t.h = s.h ∧ t.bitcnt = s.bitcnt) ∨
    ((s.nextEvent = .reset ∨ ∃ ready, s.nextEvent = .accept .finalize ready) ∧ t.h = iv ∧ t.bitcnt = 0) ∨
    (∃ b ready, s.nextEvent = .accept (.update b) ready ∧ s.buflen = 63 ∧ t.h = compress s.h (s.buf.set 63 b) ∧
      t.bitcnt = s.bitcnt + 512)

/-- R24, R50, R58: the only writers of the pending buffer. A step changes BUF or BUFLEN only by accepting an UPDATE, which
stores its byte at BUF[BUFLEN] and leaves every other byte, by FINALIZE, or by reset; FINALIZE and reset leave BUFLEN = 0, and
the bytes of BUF unspecified. -/
def Obligations.OnlyWritersOfPendingBuffer : Prop :=
  ∀ s t : State, step s = .next t →
    (t.buf = s.buf ∧ t.buflen = s.buflen) ∨
    ((s.nextEvent = .reset ∨ ∃ ready, s.nextEvent = .accept .finalize ready) ∧ t.buflen = 0) ∨
    (∃ b ready, s.nextEvent = .accept (.update b) ready ∧ t.readBuf s.buflen = b ∧
      (∀ j : BitVec 6, j ≠ s.buflen → t.readBuf j = s.readBuf j) ∧
      t.buflen = if s.buflen = 63 then 0 else s.buflen + 1)

/-- R23, R28: no rule reads the stale bytes of BUF or what an earlier command left in the compressor. From two states that
agree in the architecture, every command gives states that again agree in it, and FINALIZE the same digest. From two states
that differ at most in stale bytes and compressor registers (and in the model's counter of free values), every command gives
states that again differ only there, with the same response channel, mark, drives and digests taken; and so does every step,
or both steps are refused alike. -/
def Obligations.StaleStateIsNeverRead : Prop :=
  (∀ s s' : State, SameArchitecture s s' →
    (∀ b, ∃ t t', exec (.update b) s = .next t ∧ exec (.update b) s' = .next t' ∧ SameArchitecture t t') ∧
    (∃ t t', exec .finalize s = .next t ∧ exec .finalize s' = .next t' ∧ SameArchitecture t t' ∧
      t.response = t'.response)) ∧
  (∀ s s' : State, SameButStale s s' →
    (∀ i, ∃ t t', exec i s = .next t ∧ exec i s' = .next t' ∧ SameButStale t t') ∧
    ((∃ t t', step s = .next t ∧ step s' = .next t' ∧ SameButStale t t') ∨
      ∃ r, step s = .refused r ∧ step s' = .refused r))

/-- R179: a step of one instance leaves every other instance as it was, and is that instance's own step. -/
def Obligations.InstancesAreIndependent : Prop :=
  ∀ (cores : List State) (j : Nat) (hj : j < cores.length) (t : State), step cores[j] = .next t →
    ∃ cores', stepInstance j cores = some (.next cores') ∧ cores'[j]? = some t ∧
      ∀ k, k ≠ j → cores'[k]? = cores[k]?

/-- A reserved word at one of several instances: the step is refused, that instance keeps its state with the refusal mark
(R75), and every other instance is as it was and steps as it would have. R179 says that no command of one instance affects
another; what a refusal at one is for the others is the model's choice (log entry 22, DESIGN CHOICE). -/
def Obligations.RefusalStaysWithItsInstance : Prop :=
  ∀ (cores : List State) (j : Nat) (hj : j < cores.length) (w : CmdWord),
    step cores[j] = .refused (.reservedCommand w) →
    stepInstance j cores = some (.refused (.reservedCommand w)) ∧
    (afterInstance j cores)[j]? = some { cores[j] with refusalMark := some w } ∧
    (∀ k, k ≠ j → (afterInstance j cores)[k]? = cores[k]?) ∧
    stepInstance j (afterInstance j cores) = some (.refused (.reservedCommand w)) ∧
    ∀ (k : Nat) (hk : k < cores.length) (t : State), k ≠ j → step cores[k] = .next t →
      stepInstance k (afterInstance j cores) = some (.next ((afterInstance j cores).set k t))

/-! ### The cycle level -/

/-- R200: the reference refinement of UPDATE. After the accepting edge and 66 edges per compression without a reset, the
core is IDLE again and agrees with the atomic rule in everything but the compressor's own registers; CMD_READY is 0 in
between, and no digest appears on the response channel. The count of edges, and the completion at the accepting edge where no
block fills, are those of the example refinement as the model writes it out (log entry 17, DESIGN CHOICE). -/
def Obligations.CycleUpdateRefinesAtomicRule : Prop :=
  ∀ (c : CycleState) (b : Byte) (d : HostDrive) (ds : List HostDrive),
    c.core.refusalMark = none → c.phase = .idle → d.rst = false → d.cmd = some (encode (.update b)) →
    (∀ e ∈ ds, e.rst = false) → ds.length = 66 * compressions (.update b) c.core →
    ∃ t c', exec (.update b) c.core = .next t ∧ c.clocks (d :: ds) = .next c' ∧ c'.phase = .idle ∧
      c'.core.observed = t.observed ∧
      ∀ k, k < ds.length → ∃ m, c.clocks (d :: ds.take k) = .next m ∧ m.cmdReady = false ∧
        m.core.response = c.core.response

/-- R200: the reference refinement of FINALIZE. After the accepting edge and 66 edges per compression without a reset, the
core is in RESP with the digest of the atomic rule on the response channel; CMD_READY is 0 from acceptance on, and nothing
appears on the response channel before. It stays in RESP so, with the digest offered and CMD_READY = 0, over any number of
edges at which the host is not ready. At the edge at which the host takes the digest, the core is IDLE and agrees with the
atomic rule in everything but the compressor's own registers. The count of edges and the digest on the port from the edge
that leaves FF are those of the example refinement as the model writes it out (log entry 17, DESIGN CHOICE); that the
unspecified bytes of BUF agree too is the model's form of their free values (log entry 4, DESIGN CHOICE). -/
def Obligations.CycleFinalizeRefinesAtomicRule : Prop :=
  ∀ (c : CycleState) (d : HostDrive) (ds : List HostDrive),
    c.core.refusalMark = none → c.phase = .idle → d.rst = false → d.cmd = some (encode .finalize) →
    (∀ e ∈ ds, e.rst = false) → ds.length = 66 * compressions .finalize c.core →
    ∃ t c', exec .finalize c.core = .next t ∧ c.clocks (d :: ds) = .next c' ∧ c'.phase = .resp ∧ c'.cmdReady = false ∧
      c'.core.response = t.response ∧
      (∀ k, k < ds.length → ∃ m, c.clocks (d :: ds.take k) = .next m ∧ m.cmdReady = false ∧
        m.core.response = c.core.response) ∧
      ∀ ws : List HostDrive, (∀ e ∈ ws, e.rst = false ∧ e.digestReady = false) →
        c.clocks (d :: (ds ++ ws)) = .next c' ∧
        ∀ e : HostDrive, e.rst = false → e.digestReady = true →
          ∃ c'', c.clocks (d :: (ds ++ ws ++ [e])) = .next c'' ∧ c''.phase = .idle ∧
            c''.core.observed = t.takeDigest.observed

/-- R190, R198: RST = 1 in any phase of a command in flight: S0 and IDLE, DIGEST_VALID 0, and nothing of the command
survives. Two clauses are the model's reading: in RESP no digest is delivered even where DIGEST_READY = 1 at the same edge
(log entry 11, DEDUCED), and CMD_READY is 1 right after the edge (log entry 8, DEDUCED). -/
def Obligations.ResetAbortsCommandInFlight : Prop :=
  ∀ (c : CycleState) (d : HostDrive), c.core.refusalMark = none → d.rst = true →
    ∃ c', c.clock d = .next c' ∧ c'.phase = .idle ∧ c'.cmdReady = true ∧ c'.core.isS0 ∧ c'.digestValid = false ∧
      c'.core.delivered = c.core.delivered
end

