-- ==== Sys2Proof/Laws/Bytes.lean ====
section
/-! SUPPORT. The byte order functions of Machine/Bytes.lean: lengths, and what each position holds. -/

namespace Sys2Proof.Laws

open Sys2Proof.Machine

@[simp] theorem toList_blockOf (l : List Byte) (h : l.length = 64) : (blockOf l h).toList = l := rfl

@[simp] theorem length_zeros (n : Nat) : (zeros n).length = n := by simp [zeros]

@[simp] theorem length_beBytes (n : Nat) {w : Nat} (v : BitVec w) : (beBytes n v).length = n := by simp [beBytes]

/-- Two blocks with the same bytes are the same block. -/
theorem block_ext {b b' : Block} (h : b.toList = b'.toList) : b = b' := Vector.toList_inj.mp h

/-- Byte k of `BEbytes_N(v)` is `v[8N-1-8k : 8N-8-8k]` (R10). -/
theorem beBytes_getElem? (n : Nat) {w : Nat} (v : BitVec w) (k : Nat) (h : k < n) :
    (beBytes n v)[k]? = some (v.extractLsb' (8 * n - 8 - 8 * k) 8) := by
  simp [beBytes, h]

theorem beBytes_four (v : Word) :
    beBytes 4 v = [v.extractLsb' 24 8, v.extractLsb' 16 8, v.extractLsb' 8 8, v.extractLsb' 0 8] := rfl

/-- The digest bytes, word by word (R54). -/
theorem digestBytes_eq (hf : HashState) :
    digestBytes hf =
      beBytes 4 hf[0] ++ beBytes 4 hf[1] ++ beBytes 4 hf[2] ++ beBytes 4 hf[3] ++
      beBytes 4 hf[4] ++ beBytes 4 hf[5] ++ beBytes 4 hf[6] ++ beBytes 4 hf[7] := by
  have hl : hf.toList = [hf[0], hf[1], hf[2], hf[3], hf[4], hf[5], hf[6], hf[7]] := by
    apply List.ext_getElem (by simp)
    intro n h1 h2
    simp only [Vector.length_toList] at h1
    interval_cases n <;> rfl
  simp [digestBytes, hl]

theorem length_digestBytes (hf : HashState) : (digestBytes hf).length = 32 := by
  simp [digestBytes_eq]

end Sys2Proof.Laws
end

