-- ==== Sys2Proof/Laws/Compressor.lean ====
section
/-! SUPPORT. What one compression leaves in the compressor's registers, said once: the schedule words, the round index,
Hin, and that the result does not depend on what the registers held before. -/

namespace Sys2Proof.Laws

open Sys2Proof.Machine

/-- The words a block's schedule has: its 16 words, then the recurrence (R111, R112). -/
structure IsSchedule (blk : Block) (w : Vector Word 64) : Prop where
  load : ∀ (t : Nat) (ht : t < 16), w[t] = blockWord blk t ht
  expand : ∀ (k : Nat) (hk : k < 48), w[k + 16] = schedWord w[k + 14] w[k + 9] w[k + 1] w[k]

/-- The recurrence determines the schedule. -/
theorem IsSchedule.unique {blk : Block} {w w' : Vector Word 64} (h : IsSchedule blk w) (h' : IsSchedule blk w') :
    w = w' := by
  have key : ∀ (t : Nat) (ht : t < 64), w[t] = w'[t] := by
    intro t
    induction t using Nat.strong_induction_on with
    | _ t ih =>
      intro ht
      by_cases hlt : t < 16
      · rw [h.load t hlt, h'.load t hlt]
      · obtain ⟨k, rfl⟩ : ∃ k, t = k + 16 := ⟨t - 16, by omega⟩
        rw [h.expand k (by omega), h'.expand k (by omega), ih (k + 14) (by omega) (by omega),
          ih (k + 9) (by omega) (by omega), ih (k + 1) (by omega) (by omega), ih k (by omega) (by omega)]
  exact Vector.ext key

theorem schedLoad_get_aux (blk : Block) (w : Vector Word 64) (n : Nat) (hn : n ≤ 16) (t : Nat) (ht : t < n) :
    (Nat.fold n (fun t ht w => w.set t (blockWord blk t (Nat.lt_of_lt_of_le ht hn))) w)[t] =
      blockWord blk t (Nat.lt_of_lt_of_le ht hn) := by
  induction n with
  | zero => omega
  | succ n ih =>
    rw [Nat.fold_succ, Vector.getElem_set]
    split
    · next h => subst h; rfl
    · exact ih (by omega) (by omega)

theorem schedLoad_get (blk : Block) (c : Compressor) (t : Nat) (ht : t < 16) :
    (c.schedLoad blk).w[t] = blockWord blk t ht := schedLoad_get_aux blk c.w 16 le_rfl t ht

/-- The schedule expansion keeps the words below the ones it has computed, and each computed one meets the recurrence. -/
theorem schedExpand_get_aux (w : Vector Word 64) (n : Nat) (hn : n ≤ 48) :
    let w' := Nat.fold n (fun k hk w =>
      w.set (k + 16) (schedWord w[k + 14] w[k + 9] w[k + 1] w[k])) w
    (∀ (t : Nat) (ht : t < 16), w'[t] = w[t]) ∧
    (∀ (k : Nat) (hk : k < n), w'[k + 16] = schedWord w'[k + 14] w'[k + 9] w'[k + 1] w'[k]) := by
  induction n with
  | zero => exact ⟨fun t ht => by simp, fun k hk => by omega⟩
  | succ n ih =>
    obtain ⟨ih1, ih2⟩ := ih (by omega)
    simp only [Nat.fold_succ]
    refine ⟨fun t ht => ?_, fun k hk => ?_⟩
    · rw [Vector.getElem_set_ne _ _ (by omega)]; exact ih1 t ht
    · rcases Nat.lt_succ_iff_lt_or_eq.mp hk with h | h
      · simp only [Vector.getElem_set]
        rw [if_neg (by omega), if_neg (by omega), if_neg (by omega), if_neg (by omega), if_neg (by omega)]
        exact ih2 k h
      · subst h
        simp only [Vector.getElem_set]
        rw [if_pos trivial, if_neg (by omega), if_neg (by omega), if_neg (by omega), if_neg (by omega)]

theorem schedExpand_get (c : Compressor) :
    (∀ (t : Nat) (ht : t < 16), c.schedExpand.w[t] = c.w[t]) ∧
    (∀ (k : Nat) (hk : k < 48), c.schedExpand.w[k + 16] =
      schedWord c.schedExpand.w[k + 14] c.schedExpand.w[k + 9] c.schedExpand.w[k + 1] c.schedExpand.w[k]) :=
  schedExpand_get_aux c.w 48 le_rfl

/-- Loading and expanding a block leaves its schedule, whatever the registers held. -/
theorem isSchedule_expand_load (blk : Block) (c : Compressor) : IsSchedule blk (c.schedLoad blk).schedExpand.w where
  load t ht := by rw [(schedExpand_get _).1 t ht, schedLoad_get blk c t ht]
  expand := (schedExpand_get _).2

/-- The first n rounds from given registers. -/
def roundsUpTo (c : Compressor) (n : Nat) (hn : n ≤ 64) : Compressor :=
  Nat.fold n (fun i hi c => c.roundStep ⟨i, Nat.lt_of_lt_of_le hi hn⟩) c

@[simp] theorem roundsUpTo_zero (c : Compressor) (hn : 0 ≤ 64) : roundsUpTo c 0 hn = c := rfl

theorem roundsUpTo_succ (c : Compressor) (n : Nat) (hn : n + 1 ≤ 64) :
    roundsUpTo c (n + 1) hn = (roundsUpTo c n (by omega)).roundStep ⟨n, hn⟩ := by
  simp only [roundsUpTo, Nat.fold_succ]

theorem rounds_eq (c : Compressor) : c.rounds = roundsUpTo c 64 le_rfl := rfl

/-- Rounds write the working variables and the round index only. -/
theorem roundsUpTo_frame (c : Compressor) (n : Nat) (hn : n ≤ 64) :
    (roundsUpTo c n hn).w = c.w ∧ (roundsUpTo c n hn).hin = c.hin := by
  induction n with
  | zero => simp
  | succ n ih =>
    rw [roundsUpTo_succ]
    exact ih (by omega)

theorem roundsUpTo_round (c : Compressor) (n : Nat) (hn : n + 1 ≤ 64) :
    (roundsUpTo c (n + 1) hn).round.val = n + 1 := by
  rw [roundsUpTo_succ]; rfl

@[simp] theorem run_hin (c : Compressor) (hin : HashState) (blk : Block) : (c.run hin blk).hin = hin := by
  simp only [Compressor.run, rounds_eq, (roundsUpTo_frame _ _ _).2]; rfl

theorem run_w (c : Compressor) (hin : HashState) (blk : Block) :
    (c.run hin blk).w = (c.schedLoad blk).schedExpand.w := by
  simp only [Compressor.run, rounds_eq, (roundsUpTo_frame _ _ _).1]; rfl

theorem isSchedule_run (c : Compressor) (hin : HashState) (blk : Block) : IsSchedule blk (c.run hin blk).w := by
  rw [run_w]; exact isSchedule_expand_load blk c

theorem run_round (c : Compressor) (hin : HashState) (blk : Block) : (c.run hin blk).round.val = 64 := by
  simp only [Compressor.run, rounds_eq]; exact roundsUpTo_round _ 63 le_rfl

/-- Every register has the same value after a compression, whatever it held before. -/
theorem run_independent (c c' : Compressor) (hin : HashState) (blk : Block) : c.run hin blk = c'.run hin blk := by
  have hw : (c.schedLoad blk).schedExpand.w = (c'.schedLoad blk).schedExpand.w :=
    (isSchedule_expand_load blk c).unique (isSchedule_expand_load blk c')
  simp only [Compressor.run, Compressor.wvInit, hw]

/-- FEED_FWD reads the working variables and Hin only (R118). -/
theorem feedFwd_congr {c c' : Compressor} (hv : c.vars = c'.vars) (hh : c.hin = c'.hin) : c.feedFwd = c'.feedFwd := by
  unfold Compressor.feedFwd; rw [hv, hh]

/-- The result of a compression by any registers is the pure function of R119. -/
@[simp] theorem feedFwd_run (c : Compressor) (hin : HashState) (blk : Block) :
    (c.run hin blk).feedFwd = compress hin blk := by
  rw [run_independent c Compressor.reset]; rfl

@[simp] theorem hout_runCompressor (s : State) (hin : HashState) (blk : Block) :
    (s.runCompressor hin blk).hout = compress hin blk := by
  simp only [State.hout, State.runCompressor, State.writeComp, feedFwd_run]

end Sys2Proof.Laws
end

