-- ==== Sys2Proof/Laws/State.lean ====
section
/-! SUPPORT. One lemma per field per named operation of Machine/Ops.lean (and of `runCompressor` and `present`): what the
operation leaves in the field. Later proofs rewrite with these and do not unfold a record update. -/

namespace Sys2Proof.Laws

open Sys2Proof.Machine

variable (s : State)

@[simp] theorem writeH_h (v : HashState) : (s.writeH v).h = v := rfl
@[simp] theorem writeH_buf (v : HashState) : (s.writeH v).buf = s.buf := rfl
@[simp] theorem writeH_buflen (v : HashState) : (s.writeH v).buflen = s.buflen := rfl
@[simp] theorem writeH_bitcnt (v : HashState) : (s.writeH v).bitcnt = s.bitcnt := rfl
@[simp] theorem writeH_comp (v : HashState) : (s.writeH v).comp = s.comp := rfl
@[simp] theorem writeH_response (v : HashState) : (s.writeH v).response = s.response := rfl
@[simp] theorem writeH_refusalMark (v : HashState) : (s.writeH v).refusalMark = s.refusalMark := rfl
@[simp] theorem writeH_drives (v : HashState) : (s.writeH v).drives = s.drives := rfl
@[simp] theorem writeH_delivered (v : HashState) : (s.writeH v).delivered = s.delivered := rfl
@[simp] theorem writeH_freeCount (v : HashState) : (s.writeH v).freeCount = s.freeCount := rfl

@[simp] theorem writeBuf_h (i : BitVec 6) (b : Byte) : (s.writeBuf i b).h = s.h := rfl
@[simp] theorem writeBuf_buf (i : BitVec 6) (b : Byte) : (s.writeBuf i b).buf = s.buf.set i.toNat b i.isLt := rfl
@[simp] theorem writeBuf_buflen (i : BitVec 6) (b : Byte) : (s.writeBuf i b).buflen = s.buflen := rfl
@[simp] theorem writeBuf_bitcnt (i : BitVec 6) (b : Byte) : (s.writeBuf i b).bitcnt = s.bitcnt := rfl
@[simp] theorem writeBuf_comp (i : BitVec 6) (b : Byte) : (s.writeBuf i b).comp = s.comp := rfl
@[simp] theorem writeBuf_response (i : BitVec 6) (b : Byte) : (s.writeBuf i b).response = s.response := rfl
@[simp] theorem writeBuf_refusalMark (i : BitVec 6) (b : Byte) : (s.writeBuf i b).refusalMark = s.refusalMark := rfl
@[simp] theorem writeBuf_drives (i : BitVec 6) (b : Byte) : (s.writeBuf i b).drives = s.drives := rfl
@[simp] theorem writeBuf_delivered (i : BitVec 6) (b : Byte) : (s.writeBuf i b).delivered = s.delivered := rfl
@[simp] theorem writeBuf_freeCount (i : BitVec 6) (b : Byte) : (s.writeBuf i b).freeCount = s.freeCount := rfl

@[simp] theorem writeBuflen_h (v : BitVec 6) : (s.writeBuflen v).h = s.h := rfl
@[simp] theorem writeBuflen_buf (v : BitVec 6) : (s.writeBuflen v).buf = s.buf := rfl
@[simp] theorem writeBuflen_buflen (v : BitVec 6) : (s.writeBuflen v).buflen = v := rfl
@[simp] theorem writeBuflen_bitcnt (v : BitVec 6) : (s.writeBuflen v).bitcnt = s.bitcnt := rfl
@[simp] theorem writeBuflen_comp (v : BitVec 6) : (s.writeBuflen v).comp = s.comp := rfl
@[simp] theorem writeBuflen_response (v : BitVec 6) : (s.writeBuflen v).response = s.response := rfl
@[simp] theorem writeBuflen_refusalMark (v : BitVec 6) : (s.writeBuflen v).refusalMark = s.refusalMark := rfl
@[simp] theorem writeBuflen_drives (v : BitVec 6) : (s.writeBuflen v).drives = s.drives := rfl
@[simp] theorem writeBuflen_delivered (v : BitVec 6) : (s.writeBuflen v).delivered = s.delivered := rfl
@[simp] theorem writeBuflen_freeCount (v : BitVec 6) : (s.writeBuflen v).freeCount = s.freeCount := rfl

@[simp] theorem writeBitcnt_h (v : Count64) : (s.writeBitcnt v).h = s.h := rfl
@[simp] theorem writeBitcnt_buf (v : Count64) : (s.writeBitcnt v).buf = s.buf := rfl
@[simp] theorem writeBitcnt_buflen (v : Count64) : (s.writeBitcnt v).buflen = s.buflen := rfl
@[simp] theorem writeBitcnt_bitcnt (v : Count64) : (s.writeBitcnt v).bitcnt = v := rfl
@[simp] theorem writeBitcnt_comp (v : Count64) : (s.writeBitcnt v).comp = s.comp := rfl
@[simp] theorem writeBitcnt_response (v : Count64) : (s.writeBitcnt v).response = s.response := rfl
@[simp] theorem writeBitcnt_refusalMark (v : Count64) : (s.writeBitcnt v).refusalMark = s.refusalMark := rfl
@[simp] theorem writeBitcnt_drives (v : Count64) : (s.writeBitcnt v).drives = s.drives := rfl
@[simp] theorem writeBitcnt_delivered (v : Count64) : (s.writeBitcnt v).delivered = s.delivered := rfl
@[simp] theorem writeBitcnt_freeCount (v : Count64) : (s.writeBitcnt v).freeCount = s.freeCount := rfl

@[simp] theorem writeComp_h (c : Compressor) : (s.writeComp c).h = s.h := rfl
@[simp] theorem writeComp_buf (c : Compressor) : (s.writeComp c).buf = s.buf := rfl
@[simp] theorem writeComp_buflen (c : Compressor) : (s.writeComp c).buflen = s.buflen := rfl
@[simp] theorem writeComp_bitcnt (c : Compressor) : (s.writeComp c).bitcnt = s.bitcnt := rfl
@[simp] theorem writeComp_comp (c : Compressor) : (s.writeComp c).comp = c := rfl
@[simp] theorem writeComp_response (c : Compressor) : (s.writeComp c).response = s.response := rfl
@[simp] theorem writeComp_refusalMark (c : Compressor) : (s.writeComp c).refusalMark = s.refusalMark := rfl
@[simp] theorem writeComp_drives (c : Compressor) : (s.writeComp c).drives = s.drives := rfl
@[simp] theorem writeComp_delivered (c : Compressor) : (s.writeComp c).delivered = s.delivered := rfl
@[simp] theorem writeComp_freeCount (c : Compressor) : (s.writeComp c).freeCount = s.freeCount := rfl

@[simp] theorem respond_h (d : Digest) : (s.respond d).h = s.h := rfl
@[simp] theorem respond_buf (d : Digest) : (s.respond d).buf = s.buf := rfl
@[simp] theorem respond_buflen (d : Digest) : (s.respond d).buflen = s.buflen := rfl
@[simp] theorem respond_bitcnt (d : Digest) : (s.respond d).bitcnt = s.bitcnt := rfl
@[simp] theorem respond_comp (d : Digest) : (s.respond d).comp = s.comp := rfl
@[simp] theorem respond_response (d : Digest) : (s.respond d).response = some d := rfl
@[simp] theorem respond_refusalMark (d : Digest) : (s.respond d).refusalMark = s.refusalMark := rfl
@[simp] theorem respond_drives (d : Digest) : (s.respond d).drives = s.drives := rfl
@[simp] theorem respond_delivered (d : Digest) : (s.respond d).delivered = s.delivered := rfl
@[simp] theorem respond_freeCount (d : Digest) : (s.respond d).freeCount = s.freeCount := rfl

@[simp] theorem dropResponse_h : (s.dropResponse).h = s.h := rfl
@[simp] theorem dropResponse_buf : (s.dropResponse).buf = s.buf := rfl
@[simp] theorem dropResponse_buflen : (s.dropResponse).buflen = s.buflen := rfl
@[simp] theorem dropResponse_bitcnt : (s.dropResponse).bitcnt = s.bitcnt := rfl
@[simp] theorem dropResponse_comp : (s.dropResponse).comp = s.comp := rfl
@[simp] theorem dropResponse_response : (s.dropResponse).response = none := rfl
@[simp] theorem dropResponse_refusalMark : (s.dropResponse).refusalMark = s.refusalMark := rfl
@[simp] theorem dropResponse_drives : (s.dropResponse).drives = s.drives := rfl
@[simp] theorem dropResponse_delivered : (s.dropResponse).delivered = s.delivered := rfl
@[simp] theorem dropResponse_freeCount : (s.dropResponse).freeCount = s.freeCount := rfl

@[simp] theorem setRefusalMark_h (w : CmdWord) : (s.setRefusalMark w).h = s.h := rfl
@[simp] theorem setRefusalMark_buf (w : CmdWord) : (s.setRefusalMark w).buf = s.buf := rfl
@[simp] theorem setRefusalMark_buflen (w : CmdWord) : (s.setRefusalMark w).buflen = s.buflen := rfl
@[simp] theorem setRefusalMark_bitcnt (w : CmdWord) : (s.setRefusalMark w).bitcnt = s.bitcnt := rfl
@[simp] theorem setRefusalMark_comp (w : CmdWord) : (s.setRefusalMark w).comp = s.comp := rfl
@[simp] theorem setRefusalMark_response (w : CmdWord) : (s.setRefusalMark w).response = s.response := rfl
@[simp] theorem setRefusalMark_refusalMark (w : CmdWord) : (s.setRefusalMark w).refusalMark = some w := rfl
@[simp] theorem setRefusalMark_drives (w : CmdWord) : (s.setRefusalMark w).drives = s.drives := rfl
@[simp] theorem setRefusalMark_delivered (w : CmdWord) : (s.setRefusalMark w).delivered = s.delivered := rfl
@[simp] theorem setRefusalMark_freeCount (w : CmdWord) : (s.setRefusalMark w).freeCount = s.freeCount := rfl

@[simp] theorem popDrive_h : (s.popDrive).h = s.h := rfl
@[simp] theorem popDrive_buf : (s.popDrive).buf = s.buf := rfl
@[simp] theorem popDrive_buflen : (s.popDrive).buflen = s.buflen := rfl
@[simp] theorem popDrive_bitcnt : (s.popDrive).bitcnt = s.bitcnt := rfl
@[simp] theorem popDrive_comp : (s.popDrive).comp = s.comp := rfl
@[simp] theorem popDrive_response : (s.popDrive).response = s.response := rfl
@[simp] theorem popDrive_refusalMark : (s.popDrive).refusalMark = s.refusalMark := rfl
@[simp] theorem popDrive_drives : (s.popDrive).drives = s.drives.tail := rfl
@[simp] theorem popDrive_delivered : (s.popDrive).delivered = s.delivered := rfl
@[simp] theorem popDrive_freeCount : (s.popDrive).freeCount = s.freeCount := rfl

@[simp] theorem forgetBuf_h : (s.forgetBuf).h = s.h := by simp only [State.forgetBuf]
@[simp] theorem forgetBuf_buf : (s.forgetBuf).buf = unspecifiedBuf s.freeCount := by simp only [State.forgetBuf]
@[simp] theorem forgetBuf_buflen : (s.forgetBuf).buflen = s.buflen := by simp only [State.forgetBuf]
@[simp] theorem forgetBuf_bitcnt : (s.forgetBuf).bitcnt = s.bitcnt := by simp only [State.forgetBuf]
@[simp] theorem forgetBuf_comp : (s.forgetBuf).comp = s.comp := by simp only [State.forgetBuf]
@[simp] theorem forgetBuf_response : (s.forgetBuf).response = s.response := by simp only [State.forgetBuf]
@[simp] theorem forgetBuf_refusalMark : (s.forgetBuf).refusalMark = s.refusalMark := by simp only [State.forgetBuf]
@[simp] theorem forgetBuf_drives : (s.forgetBuf).drives = s.drives := by simp only [State.forgetBuf]
@[simp] theorem forgetBuf_delivered : (s.forgetBuf).delivered = s.delivered := by simp only [State.forgetBuf]
@[simp] theorem forgetBuf_freeCount : (s.forgetBuf).freeCount = s.freeCount + 1 := by simp only [State.forgetBuf]

@[simp] theorem enterS0_h : (s.enterS0).h = iv := by simp [State.enterS0]
@[simp] theorem enterS0_buf : (s.enterS0).buf = unspecifiedBuf s.freeCount := by simp [State.enterS0]
@[simp] theorem enterS0_buflen : (s.enterS0).buflen = 0 := by simp [State.enterS0]
@[simp] theorem enterS0_bitcnt : (s.enterS0).bitcnt = 0 := by simp [State.enterS0]
@[simp] theorem enterS0_comp : (s.enterS0).comp = s.comp := by simp [State.enterS0]
@[simp] theorem enterS0_response : (s.enterS0).response = s.response := by simp [State.enterS0]
@[simp] theorem enterS0_refusalMark : (s.enterS0).refusalMark = s.refusalMark := by simp [State.enterS0]
@[simp] theorem enterS0_drives : (s.enterS0).drives = s.drives := by simp [State.enterS0]
@[simp] theorem enterS0_delivered : (s.enterS0).delivered = s.delivered := by simp [State.enterS0]
@[simp] theorem enterS0_freeCount : (s.enterS0).freeCount = s.freeCount + 1 := by simp [State.enterS0]

@[simp] theorem resetEvent_h : (s.resetEvent).h = iv := by simp [State.resetEvent]
@[simp] theorem resetEvent_buf : (s.resetEvent).buf = unspecifiedBuf s.freeCount := by simp [State.resetEvent]
@[simp] theorem resetEvent_buflen : (s.resetEvent).buflen = 0 := by simp [State.resetEvent]
@[simp] theorem resetEvent_bitcnt : (s.resetEvent).bitcnt = 0 := by simp [State.resetEvent]
@[simp] theorem resetEvent_comp : (s.resetEvent).comp = s.comp := by simp [State.resetEvent]
@[simp] theorem resetEvent_response : (s.resetEvent).response = none := by simp [State.resetEvent]
@[simp] theorem resetEvent_refusalMark : (s.resetEvent).refusalMark = s.refusalMark := by simp [State.resetEvent]
@[simp] theorem resetEvent_drives : (s.resetEvent).drives = s.drives := by simp [State.resetEvent]
@[simp] theorem resetEvent_delivered : (s.resetEvent).delivered = s.delivered := by simp [State.resetEvent]
@[simp] theorem resetEvent_freeCount : (s.resetEvent).freeCount = s.freeCount + 1 := by simp [State.resetEvent]

@[simp] theorem runCompressor_h (hin : HashState) (blk : Block) : (s.runCompressor hin blk).h = s.h := by simp only [State.runCompressor, State.writeComp]
@[simp] theorem runCompressor_buf (hin : HashState) (blk : Block) : (s.runCompressor hin blk).buf = s.buf := by simp only [State.runCompressor, State.writeComp]
@[simp] theorem runCompressor_buflen (hin : HashState) (blk : Block) : (s.runCompressor hin blk).buflen = s.buflen := by simp only [State.runCompressor, State.writeComp]
@[simp] theorem runCompressor_bitcnt (hin : HashState) (blk : Block) : (s.runCompressor hin blk).bitcnt = s.bitcnt := by simp only [State.runCompressor, State.writeComp]
@[simp] theorem runCompressor_comp (hin : HashState) (blk : Block) : (s.runCompressor hin blk).comp = s.comp.run hin blk := by simp only [State.runCompressor, State.writeComp]
@[simp] theorem runCompressor_response (hin : HashState) (blk : Block) : (s.runCompressor hin blk).response = s.response := by simp only [State.runCompressor, State.writeComp]
@[simp] theorem runCompressor_refusalMark (hin : HashState) (blk : Block) : (s.runCompressor hin blk).refusalMark = s.refusalMark := by simp only [State.runCompressor, State.writeComp]
@[simp] theorem runCompressor_drives (hin : HashState) (blk : Block) : (s.runCompressor hin blk).drives = s.drives := by simp only [State.runCompressor, State.writeComp]
@[simp] theorem runCompressor_delivered (hin : HashState) (blk : Block) : (s.runCompressor hin blk).delivered = s.delivered := by simp only [State.runCompressor, State.writeComp]
@[simp] theorem runCompressor_freeCount (hin : HashState) (blk : Block) : (s.runCompressor hin blk).freeCount = s.freeCount := by simp only [State.runCompressor, State.writeComp]

@[simp] theorem present_h (w : CmdWord) : (s.present w).h = s.h := rfl
@[simp] theorem present_buf (w : CmdWord) : (s.present w).buf = s.buf := rfl
@[simp] theorem present_buflen (w : CmdWord) : (s.present w).buflen = s.buflen := rfl
@[simp] theorem present_bitcnt (w : CmdWord) : (s.present w).bitcnt = s.bitcnt := rfl
@[simp] theorem present_comp (w : CmdWord) : (s.present w).comp = s.comp := rfl
@[simp] theorem present_response (w : CmdWord) : (s.present w).response = none := rfl
@[simp] theorem present_refusalMark (w : CmdWord) : (s.present w).refusalMark = none := rfl
@[simp] theorem present_drives (w : CmdWord) : (s.present w).drives = presentDrive w :: s.drives := rfl
@[simp] theorem present_delivered (w : CmdWord) : (s.present w).delivered = s.delivered := rfl
@[simp] theorem present_freeCount (w : CmdWord) : (s.present w).freeCount = s.freeCount := rfl

@[simp] theorem takeDigest_h : s.takeDigest.h = s.h := by
  unfold State.takeDigest; split <;> rfl
@[simp] theorem takeDigest_buf : s.takeDigest.buf = s.buf := by
  unfold State.takeDigest; split <;> rfl
@[simp] theorem takeDigest_buflen : s.takeDigest.buflen = s.buflen := by
  unfold State.takeDigest; split <;> rfl
@[simp] theorem takeDigest_bitcnt : s.takeDigest.bitcnt = s.bitcnt := by
  unfold State.takeDigest; split <;> rfl
@[simp] theorem takeDigest_comp : s.takeDigest.comp = s.comp := by
  unfold State.takeDigest; split <;> rfl
@[simp] theorem takeDigest_refusalMark : s.takeDigest.refusalMark = s.refusalMark := by
  unfold State.takeDigest; split <;> rfl
@[simp] theorem takeDigest_drives : s.takeDigest.drives = s.drives := by
  unfold State.takeDigest; split <;> rfl
@[simp] theorem takeDigest_freeCount : s.takeDigest.freeCount = s.freeCount := by
  unfold State.takeDigest; split <;> rfl
@[simp] theorem takeDigest_response : s.takeDigest.response = none := by
  unfold State.takeDigest; split <;> simp_all
@[simp] theorem takeDigest_delivered : s.takeDigest.delivered = s.delivered ++ s.response.toList := by
  unfold State.takeDigest; split <;> simp_all

theorem takeDigest_of_none (h : s.response = none) : s.takeDigest = s := by
  unfold State.takeDigest; simp [h]

/-- Entering S0 leaves the registers of S0 (R34). -/
theorem isS0_enterS0 : s.enterS0.isS0 := by simp [State.isS0]

/-- Reset leaves the registers of S0 (R190). -/
theorem isS0_resetEvent : s.resetEvent.isS0 := by simp [State.isS0]

/-- A read of BUF after a write gives the byte written at that index, and the old byte at every other. -/
theorem readBuf_writeBuf (i j : BitVec 6) (b : Byte) :
    (s.writeBuf i b).readBuf j = if i = j then b else s.readBuf j := by
  simp only [State.readBuf, writeBuf_buf, Vector.getElem_set, BitVec.toNat_inj]

end Sys2Proof.Laws
end

