-- ==== Sys2Proof/Laws/Controller.lean ====
section
/-! SUPPORT. What UPDATE and FINALIZE leave in each field, said once. -/

namespace Sys2Proof.Laws

open Sys2Proof.Machine

variable (s : State) (b : Byte)

theorem exec_update : exec (.update b) s = .next (s.update b) := rfl

theorem exec_finalize : exec .finalize s = .next s.finalize := rfl

/-- UPDATE below 63 pending bytes (R140). -/
theorem update_of_ne (h : s.buflen ≠ 63) : s.update b = (s.writeBuf s.buflen b).writeBuflen (s.buflen + 1) := by
  simp only [State.update, if_neg h]

/-- UPDATE with 63 pending bytes (R140). -/
theorem update_of_eq (h : s.buflen = 63) : s.update b = (s.writeBuf s.buflen b).completeBlock := by
  simp only [State.update, if_pos h]

@[simp] theorem completeBlock_h : s.completeBlock.h = compress s.h s.buf := by
  simp [State.completeBlock, State.bufBlock]

@[simp] theorem completeBlock_buf : s.completeBlock.buf = s.buf := by simp [State.completeBlock]

@[simp] theorem completeBlock_buflen : s.completeBlock.buflen = 0 := by simp [State.completeBlock]

@[simp] theorem completeBlock_bitcnt : s.completeBlock.bitcnt = s.bitcnt + 512 := by simp [State.completeBlock]

@[simp] theorem completeBlock_comp : s.completeBlock.comp = s.comp.run s.h s.buf := by
  simp [State.completeBlock, State.bufBlock]

@[simp] theorem completeBlock_response : s.completeBlock.response = s.response := by simp [State.completeBlock]

@[simp] theorem completeBlock_refusalMark : s.completeBlock.refusalMark = s.refusalMark := by
  simp [State.completeBlock]

@[simp] theorem completeBlock_drives : s.completeBlock.drives = s.drives := by simp [State.completeBlock]

@[simp] theorem completeBlock_delivered : s.completeBlock.delivered = s.delivered := by simp [State.completeBlock]

@[simp] theorem completeBlock_freeCount : s.completeBlock.freeCount = s.freeCount := by simp [State.completeBlock]

@[simp] theorem update_buf : (s.update b).buf = s.buf.set s.buflen.toNat b s.buflen.isLt := by
  unfold State.update; split <;> simp

@[simp] theorem update_response : (s.update b).response = s.response := by unfold State.update; split <;> simp

@[simp] theorem update_refusalMark : (s.update b).refusalMark = s.refusalMark := by
  unfold State.update; split <;> simp

@[simp] theorem update_drives : (s.update b).drives = s.drives := by unfold State.update; split <;> simp

@[simp] theorem update_delivered : (s.update b).delivered = s.delivered := by unfold State.update; split <;> simp

@[simp] theorem update_freeCount : (s.update b).freeCount = s.freeCount := by unfold State.update; split <;> simp

/-- The hash state FINALIZE's digest is made of (R145 to R147). -/
theorem hout_finalCompress :
    s.finalCompress.hout =
      if h : s.buflen.toNat ≤ 55 then compress s.h (s.padOne h)
      else compress (compress s.h s.padFirst) s.padSecond := by
  unfold State.finalCompress; split <;> simp

theorem writeComp_writeComp (c c' : Compressor) : (s.writeComp c).writeComp c' = s.writeComp c' := rfl

/-- `finalCompress` uses the compressor's registers and writes no other field. -/
theorem finalCompress_frame : ∃ c, s.finalCompress = s.writeComp c := by
  unfold State.finalCompress
  split
  · exact ⟨_, rfl⟩
  · simp only [State.runCompressor, writeComp_writeComp]
    exact ⟨_, rfl⟩

/-- FINALIZE writes the response channel, the registers of S0, BUF's unspecified bytes and the compressor's registers
(R147). -/
theorem finalize_eq :
    ∃ c, s.finalize = ((s.writeComp c).respond (digestOf s.finalCompress.hout)).enterS0 := by
  obtain ⟨c, hc⟩ := finalCompress_frame s
  exact ⟨c, by simp only [State.finalize]; rw [← hc]⟩

@[simp] theorem finalize_response : s.finalize.response = some (digestOf s.finalCompress.hout) := by
  obtain ⟨c, hc⟩ := finalize_eq s; rw [hc]; simp

theorem isS0_finalize : s.finalize.isS0 := by
  obtain ⟨c, hc⟩ := finalize_eq s; rw [hc]; exact isS0_enterS0 _

@[simp] theorem finalize_refusalMark : s.finalize.refusalMark = s.refusalMark := by
  obtain ⟨c, hc⟩ := finalize_eq s; rw [hc]; simp

@[simp] theorem finalize_drives : s.finalize.drives = s.drives := by
  obtain ⟨c, hc⟩ := finalize_eq s; rw [hc]; simp

@[simp] theorem finalize_delivered : s.finalize.delivered = s.delivered := by
  obtain ⟨c, hc⟩ := finalize_eq s; rw [hc]; simp

/-- UPDATE appends its byte to the pending bytes: they and the new byte are the first BUFLEN + 1 bytes of BUF. -/
theorem take_set_pending : ((s.buf.set s.buflen.toNat b s.buflen.isLt).toList).take (s.buflen.toNat + 1) =
    s.pending ++ [b] := by
  have hl := s.buflen.isLt
  simp only [State.pending, Vector.toList_set]
  rw [List.take_add_one, List.take_set_of_le (le_refl _)]
  simp [hl]

@[simp] theorem updates_nil : s.updates [] = s := rfl

@[simp] theorem updates_cons (rest : List Byte) : s.updates (b :: rest) = (s.update b).updates rest := rfl

end Sys2Proof.Laws
end

