-- ==== Sys2Proof/Laws/Step.lean ====
section
/-! SUPPORT. What a step can do, said once: the event of a state under each reading of its ports, and the outcome of each
event. -/

namespace Sys2Proof.Laws

open Sys2Proof.Machine

variable (s : State)

theorem nextEvent_marked {w : CmdWord} (h : s.refusalMark = some w) : s.nextEvent = .marked w := by
  simp [State.nextEvent, h]

theorem nextEvent_quiet (hm : s.refusalMark = none) (hd : s.drives = []) : s.nextEvent = .quiet := by
  simp [State.nextEvent, hm, hd]

theorem nextEvent_drive {d : HostDrive} {rest : List HostDrive} (hm : s.refusalMark = none)
    (hd : s.drives = d :: rest) : s.nextEvent = s.edgeEvent d := by
  simp [State.nextEvent, hm, hd]

/-- What the next step is depends on the response channel, the mark and the drives alone: no register, no byte of BUF and no
digest taken before has a part in it (R71, R72, R175). -/
theorem nextEvent_congr {s s' : State} (hr : s.response = s'.response) (hm : s.refusalMark = s'.refusalMark)
    (hd : s.drives = s'.drives) : s.nextEvent = s'.nextEvent := by
  have he : ∀ d, s.edgeEvent d = s'.edgeEvent d := fun d => by
    simp only [State.edgeEvent, State.digestValid, hr]; rfl
  unfold State.nextEvent
  rw [hm, hd]
  cases s'.refusalMark with
  | some w => rfl
  | none => cases s'.drives with
    | nil => rfl
    | cons d rest => exact he d

theorem edgeEvent_reset {d : HostDrive} (h : d.rst = true) : s.edgeEvent d = .reset := by simp [State.edgeEvent, h]

theorem edgeEvent_waiting {d : HostDrive} (h : d.rst = false) (hv : s.digestValid = true) :
    s.edgeEvent d = if d.digestReady then .take else .hold := by
  simp [State.edgeEvent, h, hv]

theorem edgeEvent_ready {d : HostDrive} (h : d.rst = false) (hv : s.digestValid = false) :
    s.edgeEvent d = match d.cmd with
      | none => .idle
      | some w => acceptEvent w d.digestReady := by
  cases hc : d.cmd <;> simp [State.edgeEvent, h, hv, hc]

theorem cmdReady_iff : s.cmdReady = true ↔ s.response = none := by
  simp [State.cmdReady, State.digestValid]

theorem acceptEvent_ok {w : CmdWord} {i : Instr} {r : Bool} (h : decode w = .ok i) :
    acceptEvent w r = .accept i r := by simp [acceptEvent, h]

theorem acceptEvent_error {w : CmdWord} {e : DecodeError} {r : Bool} (h : decode w = .error e) :
    acceptEvent w r = .reserved w := by simp [acceptEvent, h]

/-- The state an event leaves, where it leaves one. -/
def afterEvent (e : Event) (s : State) : State :=
  match e with
  | .marked _ => s
  | .quiet => s
  | .reset => s.popDrive.resetEvent
  | .take => s.popDrive.takeDigest
  | .hold => s.popDrive
  | .idle => s.popDrive
  | .accept (.update b) ready => if ready then (s.popDrive.update b).takeDigest else s.popDrive.update b
  | .accept .finalize ready => if ready then s.popDrive.finalize.takeDigest else s.popDrive.finalize
  | .reserved _ => s

/-- A step answers the state its event leaves, or is refused because the run is marked or a reserved word is accepted. -/
theorem step_eq :
    step s = match s.nextEvent with
      | .marked w => .refused (.reservedCommand w)
      | .reserved w => .refused (.reservedCommand w)
      | e => .next (afterEvent e s) := by
  unfold step
  cases he : s.nextEvent with
  | accept i ready => cases i <;> rfl
  | _ => rfl

/-- The inversion of a step that answers a next state. -/
theorem step_next_cases {t : State} (h : step s = .next t) :
    (∀ w, s.nextEvent ≠ .marked w) ∧ (∀ w, s.nextEvent ≠ .reserved w) ∧ t = afterEvent s.nextEvent s := by
  rw [step_eq] at h
  cases he : s.nextEvent with
  | marked w => simp [he] at h
  | reserved w => simp [he] at h
  | _ =>
    rw [he] at h
    exact ⟨fun w => Event.noConfusion, fun w => Event.noConfusion, (Host.Outcome.next.inj h).symm⟩

theorem run_succ_of_next {t : State} (n : Nat) (h : step s = .next t) :
    Host.Core.run core (n + 1) s = Host.Core.run core n t := by
  have h' : core.step s = .next t := h
  simp only [Host.Core.run, h']

theorem run_zero : Host.Core.run core 0 s = .next s := rfl

/-- A run that answers a next state goes on from it. -/
theorem run_add (a b : Nat) {t : State} (h : Host.Core.run core a s = .next t) :
    Host.Core.run core (a + b) s = Host.Core.run core b t := by
  induction a generalizing s with
  | zero =>
    have e : s = t := Host.Outcome.next.inj h
    rw [e, Nat.zero_add]
  | succ a ih =>
    rw [Nat.succ_add]
    cases hs : step s with
    | next u =>
      rw [run_succ_of_next _ _ hs] at h ⊢
      exact ih _ h
    | fault f => cases f
    | refused r =>
      have hs' : core.step s = .refused r := hs
      simp [Host.Core.run, hs'] at h

/-- After a refused word the run goes on from the same state with the refusal mark (R75). -/
theorem afterStep_refused {w : CmdWord} (h : step s = .refused (.reservedCommand w)) :
    s.afterStep = s.setRefusalMark w := by
  simp [State.afterStep, h, Refusal.reservedWord?]

end Sys2Proof.Laws
end

