-- ==== Sys2Proof/Laws/Cycle.lean ====
section
/-! SUPPORT. What one edge of the cycle level does, and sequences of edges. -/

namespace Sys2Proof.Laws

open Sys2Proof.Machine

variable (c : CycleState) (d : HostDrive)

/-- An edge with RST = 1 (R190). -/
theorem clock_reset (hm : c.core.refusalMark = none) (hr : d.rst = true) :
    c.clock d = .next { c with core := c.core.resetEvent, phase := .idle } := by
  unfold CycleState.clock; rw [hm]; simp [hr]

/-- An edge without reset (R200). -/
theorem clock_running (hm : c.core.refusalMark = none) (hr : d.rst = false) :
    c.clock d = match c.phase with
      | .idle => c.idleEdge d.cmd
      | .load job blk => .next (c.loadEdge job blk)
      | .round job => .next (c.roundEdge job)
      | .ff job => .next (c.ffEdge job)
      | .resp => .next (c.respEdge d.digestReady) := by
  unfold CycleState.clock; rw [hm]; simp only [hr]; cases c.phase <;> rfl

theorem clocks_cons {t : CycleState} (ds : List HostDrive) (h : c.clock d = .next t) :
    c.clocks (d :: ds) = t.clocks ds := by
  simp [CycleState.clocks, h]

theorem clocks_append {t : CycleState} (ds es : List HostDrive) (h : c.clocks ds = .next t) :
    c.clocks (ds ++ es) = t.clocks es := by
  induction ds generalizing c with
  | nil => simp [CycleState.clocks] at h; subst h; rfl
  | cons d ds ih =>
    simp only [CycleState.clocks] at h
    cases hc : c.clock d with
    | next u => rw [hc] at h; rw [List.cons_append, clocks_cons _ _ _ hc]; exact ih _ h
    | fault f => cases f
    | refused r => rw [hc] at h; cases h

end Sys2Proof.Laws
end

