-- ==== Sys2Proof/Laws/PerInstr.lean ====
section
/-! SUPPORT. The family MeetsTableRow: each command is well-formed and its word meets its row of spec/opcode_table.json. -/

namespace Sys2Proof.Laws.MeetsTableRow

/-- The match and mask of a command's row (R74). -/
def row (i : Instr) : CmdWord × CmdWord :=
  match i with
  | .update _ => (0x0100, 0xFF00)
  | .finalize => (0x0200, 0xFFFF)

/-- The command is well-formed, and its word under the row's mask is the row's match. -/
def Statement (i : Instr) : Prop := i.wf = true ∧ encode i &&& (row i).2 = (row i).1

theorem update (data : Byte) : Statement (.update data) := by
  have h : ∀ b : Byte, encode (.update b) &&& 0xFF00 = 0x0100 := by decide
  exact ⟨rfl, h data⟩

theorem finalize : Statement .finalize := ⟨rfl, by decide⟩

end Sys2Proof.Laws.MeetsTableRow
end

