-- ==== Sys2Proof/Tests/Slice0.lean ====
section
/-! SUPPORT. Tests. Every expected value is written out from spec/: the encodings of R73, the vectors of
spec/95_test_vectors.md, or the corner cases the rules state. Then a witness for the hypotheses of each statement of
Certificates/Slice0/Obligations.lean. -/

namespace Sys2Proof.Tests

open Sys2Proof Sys2Proof.Machine

/-! ### Small states -/

/-- The launch state with a host that drives this. -/
def driven (ds : List HostDrive) : State := { State.reset with drives := ds }

/-- A core whose FINALIZE waits for its digest to be taken. -/
def waiting (d : Digest) (ds : List HostDrive) : State := { State.reset with response := some d, drives := ds }

/-- H = IV and n pending bytes, each 0x61 ('a'), as after n times UPDATE 0x61 from S0 (section 3.1). -/
def filled (n : BitVec 6) (cnt : Count64) : State :=
  { State.reset with buf := Vector.replicate 64 0x61, buflen := n, bitcnt := cnt }

/-- The pending bytes 61 62 63 ("abc") with H = IV (program P1). -/
def abcState : State :=
  { State.reset with buf := (((Vector.replicate 64 0).set 0 0x61).set 1 0x62).set 2 0x63, buflen := 3 }

def responseOf (o : Host.Outcome State Fault Refusal) : Option Digest :=
  match o with
  | .next t => t.response
  | .fault _ => none
  | .refused _ => none

def nextOf (o : Host.Outcome State Fault Refusal) : Option State :=
  match o with
  | .next t => some t
  | .fault _ => none
  | .refused _ => none

/-! ### Well-formedness: a term that each check refuses -/

theorem test_wf_reserved_op : Cmd16.wf ⟨0x03, 0x00⟩ = false := by decide
theorem test_wf_finalize_data : Cmd16.wf ⟨0x02, 0x01⟩ = false := by decide
theorem test_wf_update_any_data : Cmd16.wf ⟨0x01, 0xff⟩ = true := by decide
theorem test_wf_imm_too_large : Asm.wf (.update (.num 256)) = false := by decide
theorem test_wf_imm_not_ascii : Asm.wf (.update (.char 'é')) = false := by decide
theorem test_wf_bytes_too_large : Asm.wf (.updateBytes [.num 1, .num 300]) = false := by decide
theorem test_wf_str_not_ascii : Asm.wf (.updateStr ['a', 'é']) = false := by decide
theorem test_wf_fill_too_large : Asm.wf (.updateFill (.num 256) 2) = false := by decide
theorem test_wf_hash_not_ascii : Asm.wf (.hash ['é']) = false := by decide
theorem test_wf_word_too_large : Asm.wf (.rawWord 65536) = false := by decide
theorem test_wf_instr : Instr.wf (.update 0x80) = true ∧ Instr.wf .finalize = true := by decide

/-! ### Decoding: words written out bit by bit from R73 -/

theorem test_decode_update : decode 0b0000000101100001 = .ok (.update 0x61) := by decide
theorem test_decode_update_top : decode 0b0000000111111111 = .ok (.update 0xff) := by decide
theorem test_decode_finalize : decode 0b0000001000000000 = .ok .finalize := by decide
theorem test_decode_finalize_with_data : decode 0b0000001000000001 = .error (.reserved 0x0201) := by decide
theorem test_decode_op_zero : decode 0b0000000001100001 = .error (.reserved 0x0061) := by decide
theorem test_table_rows : decodeTableWord 16 0x0100 = some (.update 0x00) ∧ decodeTableWord 16 0x0200 = some .finalize ∧
    decodeTableWord 16 0x0201 = none ∧ decodeTableWord 8 0x00 = none := by decide

/-- `.word 0x0300` is the only way to write a reserved word (R82, program P5). -/
theorem test_assemble_hash : assemble (.hash ['a', 'b', 'c']) = .ok [0x0161, 0x0162, 0x0163, 0x0200] ∧
    assemble (.rawWord 0x0300) = .ok [0x0300] := by decide

/-! ### The word operations (sections 2.1 to 2.4) -/

theorem test_add : (0xffffffff : Word) + 0x00000001 = 0 ∧ (0x6a09e667 : Word) + 0x506e3058 = 0xba7816bf := by decide
theorem test_rotr : rotr 0x00000001 1 = 0x80000000 ∧ rotr 0x80000000 31 = 0x00000001 ∧
    rotr 0x12345678 8 = 0x78123456 := by decide
theorem test_shr : shr 0x80000000 3 = 0x10000000 ∧ shr 0xffffffff 10 = 0x003fffff := by decide
theorem test_sig0 : sig0 0x00000001 = 0x02004000 ∧ sig0 0x6a09e667 = 0xba0cf582 := by decide
theorem test_sig1 : sig1 0x00000001 = 0x0000a000 ∧ sig1 0x510e527f = 0xe3640132 := by decide
theorem test_bsig0 : bsig0 0x80000000 = 0x20040200 ∧ bsig0 0x6a09e667 = 0xce20b47e := by decide
theorem test_bsig1 : bsig1 0x80000000 = 0x02100040 ∧ bsig1 0x510e527f = 0x3587272b := by decide
theorem test_ch : ch 0xf0f0f0f0 0xff00ff00 0x0f0f0f0f = 0xff0fff0f := by decide
theorem test_maj : maj 0xf0f0f0f0 0xff00ff00 0x0f0f0f0f = 0xff00ff00 := by decide
/-- The ends of the table of R26, and a row boundary. -/
theorem test_read_k : readK 0 = 0x428a2f98 ∧ readK 3 = 0xe9b5dba5 ∧ readK 4 = 0x3956c25b ∧ readK 63 = 0xc67178f2 := by
  decide
theorem test_be32 : be32 0x61 0x62 0x63 0x80 = 0x61626380 := by decide
theorem test_be_bytes : beBytes 8 (440 : Count64) = [0, 0, 0, 0, 0, 0, 0x01, 0xb8] := by decide

/-! ### The compressor (sections 2.5 to 2.7) -/

/-- T1, T2 and the working variables after round 0 of the padded "abc" block (section 2.6). -/
theorem test_round_zero :
    roundT1 0x428a2f98 0x61626380 (Compressor.reset.wvInit iv).vars = 0x54da50e8 ∧
    roundT2 (Compressor.reset.wvInit iv).vars = 0x08909ae5 ∧
    roundVars 0x428a2f98 0x61626380 (Compressor.reset.wvInit iv).vars =
      ⟨0x5d6aebcd, 0x6a09e667, 0xbb67ae85, 0x3c6ef372, 0xfa2a4622, 0x510e527f, 0x9b05688c, 0x1f83d9ab⟩ := by
  decide +kernel

/-- W[17], W[63] of the padded "abc" block (section 2.5). -/
theorem test_schedule_abc :
    ((Compressor.reset.schedLoad (abcState.padOne (by decide))).schedExpand).w[17] = 0x000f0000 ∧
    ((Compressor.reset.schedLoad (abcState.padOne (by decide))).schedExpand).w[63] = 0x12b1edeb := by decide +kernel

/-- Compress(IV, 64 bytes of 0xff) (section 2.7). -/
theorem test_compress_ones : compress iv (Vector.replicate 64 0xff) =
    #v[0xef0c748d, 0xf4da50a8, 0xd6c43c01, 0x3edc3ce7, 0x6c9d9fa9, 0xa1458ade, 0x56eb86c0, 0xa64492d2] := by
  decide +kernel

/-! ### UPDATE and FINALIZE (section 3) -/

/-- UPDATE 0x61 from S0 (section 3.1). -/
theorem test_update_first : (nextOf (exec (.update 0x61) State.reset)).map (fun t => (t.buflen, t.bitcnt, t.readBuf 0)) =
    some (1, 0, 0x61) := by decide +kernel

/-- The 64th UPDATE 0x61 (section 3.1). -/
theorem test_update_fills :
    (nextOf (exec (.update 0x61) (filled 63 0))).map (fun t => (t.buflen, t.bitcnt, t.h)) =
    some (0, 512,
      #v[0xdf5bb81c, 0xe81e0626, 0xfb45a894, 0x4fd40f31, 0xb25e6816, 0xd6d499c1, 0xab904929, 0x00635e66]) := by
  decide +kernel

/-- Program P1, the one-block case: the digest of "abc" (section 1.2, from the source). -/
theorem test_finalize_abc : responseOf (exec .finalize abcState) =
    some 0xba7816bf8f01cfea414140de5dae2223b00361a396177a9cb410ff61f20015ad := by decide +kernel

/-- Program P2, the two-block case with the smallest length, 56 times 'a' (section 3.3). -/
theorem test_finalize_two_blocks : responseOf (exec .finalize (filled 56 0)) =
    some 0xb35439a4ac6f0948b6d6f9e3c6af0f5f590ce20f1bde7090ef7970686ec6738a := by decide +kernel

/-- Hex(D) of the "abc" digest begins `ba7816bf` (R152, section 1.2). -/
theorem test_hex : (hex 0xba7816bf8f01cfea414140de5dae2223b00361a396177a9cb410ff61f20015ad).take 8 =
    ['b', 'a', '7', '8', '1', '6', 'b', 'f'] := by decide

/-! ### The step -/

/-- A reserved word from S0 (section 3.5). -/
theorem test_step_reserved : step (State.reset.withFetchWord 16 0x0300) = .refused (.reservedCommand 0x0300) := by rfl

/-- Reset after 63 times UPDATE 0x61: S0 and no digest (section 3.7). -/
theorem test_step_reset : (nextOf (step { filled 63 0 with drives := [resetDrive] })).map
    (fun t => (t.h == iv, t.buflen, t.bitcnt, t.digestValid, t.delivered)) = some (true, 0, 0, false, []) := by
  decide +kernel

/-- The step runs FINALIZE, and the ready host has the digest of the empty message (section 3.6). -/
theorem test_step_finalize : (nextOf (step (State.reset.withFetchWord 16 0x0200))).map
    (fun t => (t.delivered, t.digestValid)) =
    some ([0xe3b0c44298fc1c149afbf4c8996fb92427ae41e4649b934ca495991b7852b855], false) := by decide +kernel

/-- The cycle level, phase by phase: after LOAD and ROUND 0 of the padded "abc" block the working variables are those of
section 2.6, and W[16] comes from the window (section 2.5). -/
theorem test_cycle_round : (match (CycleState.ofState abcState).clocks [presentDrive 0x0200, silentDrive, silentDrive] with
    | .next c => some (c.core.comp.vars.a, c.core.comp.vars.e, c.core.comp.round.val, c.cmdReady)
    | .fault _ => none
    | .refused _ => none) = some (0x5d6aebcd, 0xfa2a4622, 1, false) ∧
    windowWord (windowAfter (abcState.padOne (by decide)) 17) 17 = 0x000f0000 := by decide +kernel

/-! ### Witnesses: a concrete state and operands that meet the hypotheses of each statement -/

theorem witness_EncodeDecodeRoundTrip :
    Instr.wf (.update 0xff) = true ∧ Instr.wf .finalize = true ∧ decode 0x0200 = .ok .finalize := by decide

theorem witness_AssemblerExpansions : Asm.wf (.update (.num 256)) = false ∧ 256 ≤ 256 ∧
    (∀ b ∈ [Imm.num 0, Imm.num 255, Imm.char 'a'], b.wf = true) ∧ (∀ c ∈ ['a', '~'], c.toNat < 128) ∧ 65535 < 65536 ∧
    assemble (.hash ['a']) = .ok [0x0161, 0x0200] :=
  ⟨by decide, le_rfl, by decide, by simp, by norm_num, by decide⟩

/-- Ill-formed statements of the other kinds: a string that is not ASCII, a line of UPDATE.BYTES with one operand too large,
a `.word` of 65536. -/
theorem witness_AssemblerExpansions_ill_formed : Asm.wf (.updateStr ['a', 'é']) = false ∧
    Asm.wf (.hash ['é']) = false ∧ Asm.wf (.updateBytes [.num 1, .num 256]) = false ∧
    Asm.wf (.rawWord 65536) = false := by decide

theorem witness_StepRunsDecodedCommand :
    let s := driven [presentDrive 0x0161, silentDrive]
    s.refusalMark = none ∧ s.drives = presentDrive 0x0161 :: [silentDrive] ∧ (presentDrive 0x0161).rst = false ∧
      (presentDrive 0x0161).cmd = some 0x0161 ∧ s.cmdReady = true ∧ decode 0x0161 = .ok (.update 0x61) := by decide

theorem witness_ReservedWordIsRefused :
    let s := driven [presentDrive 0x0201]
    s.refusalMark = none ∧ s.drives = presentDrive 0x0201 :: [] ∧ (presentDrive 0x0201).rst = false ∧
      (presentDrive 0x0201).cmd = some 0x0201 ∧ s.cmdReady = true ∧
      decode 0x0201 = .error (.reserved 0x0201) := by decide

/-- Reset with a command presented at the same edge, while a digest waits. -/
theorem witness_ResetHasPriority :
    let d : HostDrive := { rst := true, cmd := some 0x0161, digestReady := true }
    let s := waiting 5 [d]
    s.refusalMark = none ∧ s.drives = d :: [] ∧ d.rst = true := by decide

theorem witness_OfferedDigestIsTaken :
    let d := presentDrive 0x0161
    let s := waiting 5 [d]
    s.refusalMark = none ∧ s.drives = d :: [] ∧ d.rst = false ∧ d.digestReady = true ∧ s.response = some 5 := by decide

/-- A host that presents a command and waits two edges, then takes the digest: the first clause with n = 2, and the clause of
a late taking. -/
theorem witness_UntakenDigestHangs_late :
    let ws : List HostDrive := [silentDrive, { rst := false, cmd := some 0x0161, digestReady := false }]
    let s := waiting 5 (ws ++ presentDrive 0x0161 :: [])
    s.refusalMark = none ∧ s.digestValid = true ∧ (∀ d ∈ s.drives.take 2, d.rst = false ∧ d.digestReady = false) ∧
      s.response = some 5 ∧ s.drives = ws ++ presentDrive 0x0161 :: [] ∧
      (∀ e ∈ ws, e.rst = false ∧ e.digestReady = false) ∧ (presentDrive 0x0161).rst = false ∧
      (presentDrive 0x0161).digestReady = true := by decide

/-- A host that never takes the digest; and a reset that ends the wait. -/
theorem witness_UntakenDigestHangs :
    let s := waiting 5 [silentDrive, silentDrive]
    (s.refusalMark = none ∧ s.digestValid = true ∧ ¬ TakesDigest s) ∧
    ((waiting 5 [resetDrive]).drives = resetDrive :: [] ∧ (waiting 5 [resetDrive]).refusalMark = none ∧
      (waiting 5 [resetDrive]).digestValid = true ∧ resetDrive.rst = true) := by
  refine ⟨⟨rfl, rfl, fun h => ?_⟩, by decide⟩
  obtain ⟨d, hd, h'⟩ := h rfl
  have : d = silentDrive := by simpa [waiting] using hd
  subst this
  exact absurd h' (by decide)

/-- The host is not ready at the edge, and holds its command. -/
theorem witness_HeldCommandWaits_not_ready :
    let d : HostDrive := { rst := false, cmd := some 0x0161, digestReady := false }
    let s := waiting 5 [d, presentDrive 0x0161]
    s.refusalMark = none ∧ s.cmdReady = false ∧ s.drives = d :: presentDrive 0x0161 :: [] ∧ d.rst = false ∧
      d.cmd = some 0x0161 ∧ HoldsCommand s ∧ d.digestReady = false := by
  refine ⟨rfl, rfl, rfl, rfl, rfl, fun d e rest hd _ _ _ => ?_, rfl⟩
  simp only [waiting, List.cons.injEq] at hd
  obtain ⟨rfl, rfl, _⟩ := hd
  rfl

/-- The host takes the digest at the edge, and holds its command. -/
theorem witness_HeldCommandWaits :
    let d : HostDrive := { rst := false, cmd := some 0x0161, digestReady := true }
    let s := waiting 5 [d, presentDrive 0x0161]
    s.refusalMark = none ∧ s.cmdReady = false ∧ s.drives = d :: presentDrive 0x0161 :: [] ∧ d.rst = false ∧
      d.cmd = some 0x0161 ∧ HoldsCommand s := by
  refine ⟨rfl, rfl, rfl, rfl, rfl, fun d e rest hd _ _ _ => ?_⟩
  simp only [waiting, List.cons.injEq] at hd
  obtain ⟨rfl, rfl, _⟩ := hd
  rfl

/-- Two idle edges before a later command. -/
theorem witness_IdleKeepsState :
    let s := driven [silentDrive, silentDrive, presentDrive 0x0161]
    s.refusalMark = none ∧ s.response = none ∧ ∀ d ∈ s.drives.take 2, d.rst = false ∧ d.cmd = none := by decide

theorem witness_NoExceptionForAnyCommandSequence :
    let s := driven (commandDrives [.update 0x80, .finalize, .finalize] ++ [silentDrive])
    s.refusalMark = none ∧ s.response = none ∧
      s.drives = commandDrives [.update 0x80, .finalize, .finalize] ++ [silentDrive] := by decide

/-- Both clauses of UpdateEffect and of UpdateAppendsToPending, at the values where they meet. -/
theorem witness_UpdateEffect : (filled 62 0).buflen ≠ 63 ∧ (filled 63 0).buflen = 63 := by decide

theorem witness_UpdateFrame : (exec (.update 0x61) (filled 62 0) = .next ((filled 62 0).update 0x61)) ∧
    (0 : BitVec 6) ≠ (filled 62 0).buflen ∧ (filled 62 0).buflen ≠ 63 ∧
    (exec (.update 0x61) (filled 63 0) = .next ((filled 63 0).update 0x61)) := ⟨rfl, by decide, by decide, rfl⟩

theorem witness_UpdateAppendsToPending : State.reset.buflen ≠ 63 ∧ (filled 63 0).buflen = 63 := by decide

theorem witness_BitCounterWrapsSilently :
    (filled 63 0xfffffffffffffe00).buflen = 63 ∧ (filled 63 0xfffffffffffffe00).bitcnt.toNat = 2 ^ 64 - 512 := by decide

/-- The two cases of FINALIZE, at the lengths where they meet and at the ends, and the first and last byte of L. -/
theorem witness_FinalizeEffect : State.reset.buflen.toNat ≤ 55 ∧ (filled 55 0).buflen.toNat ≤ 55 ∧
    56 ≤ (filled 56 0).buflen.toNat ∧ 56 ≤ (filled 63 0).buflen.toNat ∧ 0 < 8 ∧ 7 < 8 := by decide

theorem witness_FinalizeFrame : exec .finalize (filled 55 0) = .next (filled 55 0).finalize := rfl

theorem witness_LengthFieldNeverCarries : Inv (filled 63 0xfffffffffffffe00) ∧ State.reset.Represents [] :=
  ⟨⟨by decide, fun h => absurd h (by decide)⟩, ⟨by rfl, by decide, by decide, by decide⟩⟩

theorem witness_FinalizeFromS0DeliversEmptyDigest : State.reset.isS0 ∧ State.isS0 (waiting 5 [silentDrive]) := by decide

theorem witness_RotateAndShiftBits : 1 ≤ 1 ∧ 31 ≤ 31 ∧ 0 < 32 ∧ 31 < 32 := by decide

/-- Both ends of a word; for σ0's shift, the last bit that has a source and the first that takes a 0. -/
theorem witness_SigmaFunctionsLinear : 0 < 32 ∧ 31 < 32 ∧ 28 + 3 < 32 ∧ ¬ 29 + 3 < 32 := by decide

theorem witness_ChooseAndMajorityPerBit : 0 < 32 ∧ 31 < 32 := by decide

/-- Both clauses, at their ends. -/
theorem witness_ScheduleWords : 0 < 16 ∧ 15 < 16 ∧ 16 ≤ 16 ∧ 63 < 64 := by decide

theorem witness_ScheduleWindowEquivalent : 0 < 64 ∧ 15 < 64 ∧ 16 < 64 ∧ 63 < 64 := by decide

theorem witness_DigestByteOrder : 0 < 8 ∧ 7 < 8 ∧ 0 < 4 ∧ 3 < 4 := by decide

/-- Three chunks, one of them empty, then two chunks, and a drive left over. -/
theorem witness_ChunkingInvariance :
    let chunks : List (List Byte) := [[0x61], [], [0x62, 0x63]]
    let s := driven (commandDrives (chunks.flatMap updateCommands) ++ [silentDrive])
    let s' := driven (commandDrives (updateCommands [0x61] ++ updateCommands []) ++ [silentDrive])
    (s.refusalMark = none ∧ s.response = none ∧
      s.drives = commandDrives (chunks.flatMap updateCommands) ++ [silentDrive]) ∧
    (s'.refusalMark = none ∧ s'.response = none ∧
      s'.drives = commandDrives (updateCommands [0x61] ++ updateCommands []) ++ [silentDrive]) := by decide

/-- The zero fill is the least: for 55 bytes the bound is met by k = 0, for 56 bytes by k = 63. The bytes of L are numbered 0
to 7. -/
theorem witness_PaddedMessageShape : (55 + 1 + 0) % 64 = 56 ∧ (56 + 1 + 63) % 64 = 56 ∧ 0 < 8 ∧ 7 < 8 := by decide

theorem witness_StreamComputesSha256 : State.reset.isS0 ∧ State.isS0 { State.reset with buf := Vector.replicate 64 7 } := by
  decide

theorem witness_RunDeliversEachDigest :
    let ms : List (List Byte) := [[0x61], []]
    let s := driven (commandDrives (ms.flatMap messageCommands) ++ [silentDrive])
    s.isS0 ∧ s.refusalMark = none ∧ s.response = none ∧
      s.drives = commandDrives (ms.flatMap messageCommands) ++ [silentDrive] := by decide

/-- A host that is ready, and one that is not. -/
theorem witness_FinalizeStepDeliversMessageDigest :
    let late := driven [{ rst := false, cmd := some 0x0200, digestReady := false }]
    State.Represents (driven [presentDrive 0x0200]) [] ∧
      (driven [presentDrive 0x0200]).nextEvent = .accept .finalize true ∧
      State.Represents late [] ∧ late.nextEvent = .accept .finalize false :=
  ⟨⟨by rfl, by decide, by decide, by decide⟩, by decide, ⟨by rfl, by decide, by decide, by decide⟩, by decide⟩

theorem witness_CompressionCount : State.reset.isS0 := by decide

theorem witness_StepKeepsBoundaryInvariant :
    Inv (driven [presentDrive 0x0161]) ∧ ∃ t, step (driven [presentDrive 0x0161]) = .next t :=
  ⟨⟨by decide, fun h => absurd h (by decide)⟩, ⟨_, rfl⟩⟩

theorem witness_StepKeepsRepresentedMessage :
    State.Represents (driven [presentDrive 0x0161]) [] ∧ ∃ t, step (driven [presentDrive 0x0161]) = .next t :=
  ⟨⟨by rfl, by decide, by decide, by decide⟩, ⟨_, rfl⟩⟩

theorem witness_OnlyWritersOfHashStateAndCounter : ∃ t, step (driven [presentDrive 0x0200]) = .next t := ⟨_, rfl⟩

/-- A step that accepts an UPDATE, and one that accepts FINALIZE. -/
theorem witness_OnlyWritersOfPendingBuffer : (∃ t, step (driven [presentDrive 0x0161]) = .next t) ∧
    (∃ t, step (driven [presentDrive 0x0200]) = .next t) ∧ (1 : BitVec 6) ≠ (driven [presentDrive 0x0161]).buflen :=
  ⟨⟨_, rfl⟩, ⟨_, rfl⟩, by decide⟩

/-- Two states that differ in a stale byte of BUF and in the compressor's registers, and agree in all else. -/
theorem witness_StaleStateIsNeverRead :
    let s' : State := { State.reset with buf := Vector.replicate 64 7, comp := { Compressor.reset with round := 64 } }
    s' ≠ State.reset ∧ SameButStale State.reset s' := by
  refine ⟨fun h => ?_, ⟨⟨rfl, rfl, rfl, by decide⟩, rfl, rfl, rfl, rfl⟩⟩
  exact absurd (congrArg (fun s => s.comp.round) h) (by decide)

theorem witness_InstancesAreIndependent :
    0 < [State.reset, State.reset].length ∧ ∃ t, step [State.reset, State.reset][0] = .next t := ⟨by decide, ⟨_, rfl⟩⟩

/-- Instance 0 accepts a reserved word, beside an instance that goes on. -/
theorem witness_RefusalStaysWithItsInstance :
    let cores := [driven [presentDrive 0x0300], State.reset]
    0 < cores.length ∧ step cores[0] = .refused (.reservedCommand 0x0300) ∧
      1 < cores.length ∧ 1 ≠ 0 ∧ ∃ t, step cores[1] = .next t := ⟨by decide, rfl, by decide, by decide, ⟨_, rfl⟩⟩

/-- An UPDATE that fills no block: it completes at its accepting edge. -/
theorem witness_CycleUpdateRefinesAtomicRule_no_block :
    let c := CycleState.ofState (filled 62 0)
    c.core.refusalMark = none ∧ c.phase = .idle ∧ (presentDrive 0x0161).rst = false ∧
      (presentDrive 0x0161).cmd = some (encode (.update 0x61)) ∧
      ([] : List HostDrive).length = 66 * compressions (.update 0x61) c.core := by decide

/-- An UPDATE that fills a block. -/
theorem witness_CycleUpdateRefinesAtomicRule :
    let c := CycleState.ofState (filled 63 0)
    let ds := List.replicate 66 silentDrive
    c.core.refusalMark = none ∧ c.phase = .idle ∧ (presentDrive 0x0161).rst = false ∧
      (presentDrive 0x0161).cmd = some (encode (.update 0x61)) ∧ (∀ e ∈ ds, e.rst = false) ∧
      ds.length = 66 * compressions (.update 0x61) c.core := by decide

/-- FINALIZE of one block, with a host that waits at two edges of RESP before it takes the digest. -/
theorem witness_CycleFinalizeRefinesAtomicRule_one_block :
    let c := CycleState.ofState (filled 55 0)
    let ds := List.replicate 66 silentDrive
    c.core.refusalMark = none ∧ c.phase = .idle ∧ (presentDrive 0x0200).cmd = some (encode .finalize) ∧
      (∀ e ∈ ds, e.rst = false) ∧ ds.length = 66 * compressions .finalize c.core ∧
      (∀ e ∈ [silentDrive, silentDrive], e.rst = false ∧ e.digestReady = false) ∧
      (presentDrive 0x0200).rst = false ∧ (presentDrive 0x0200).digestReady = true := by decide +kernel

/-- FINALIZE of two blocks. -/
theorem witness_CycleFinalizeRefinesAtomicRule :
    let c := CycleState.ofState (filled 56 0)
    let ds := List.replicate 132 silentDrive
    c.core.refusalMark = none ∧ c.phase = .idle ∧ (presentDrive 0x0200).rst = false ∧
      (presentDrive 0x0200).cmd = some (encode .finalize) ∧ (∀ e ∈ ds, e.rst = false) ∧
      ds.length = 66 * compressions .finalize c.core ∧ (presentDrive 0x0200).digestReady = true := by
  decide +kernel

/-- A compression in flight; and a digest offered in RESP, with DIGEST_READY = 1 at the edge of the reset. -/
theorem witness_ResetAbortsCommandInFlight :
    let c := { CycleState.ofState (filled 63 0) with phase := .round .update }
    let c' := { CycleState.ofState (waiting 5 []) with phase := .resp }
    let d : HostDrive := { rst := true, cmd := none, digestReady := true }
    c.core.refusalMark = none ∧ resetDrive.rst = true ∧ c'.core.refusalMark = none ∧ c'.digestValid = true ∧
      d.rst = true := by decide

end Sys2Proof.Tests
end

/-! PROOFS. Scope: the step that accepts a command word (R7, R71), and a refusal at one of several cores (R179). -/

namespace Sys2Proof.Proofs

open Sys2Proof.Machine Sys2Proof.Laws

/-! ### The decoder on an encoded command (R73, R76) -/

@[simp] theorem opField_word (c : Cmd16) : opField c.word = c.op := BitVec.extractLsb'_append_eq_left

@[simp] theorem dataField_word (c : Cmd16) : dataField c.word = c.data := BitVec.extractLsb'_append_eq_right

/-- The assembled word is the concatenation of the command's two fields (R73, R81). -/
theorem encode_eq_word (i : Instr) : encode i = i.fields.word := by
  cases i with
  | update b => rw [Cmd16.word, BitVec.append_def, BitVec.setWidth'_eq]; rfl
  | finalize => rfl

theorem decode_encode (i : Instr) : decode (encode i) = .ok i := by
  cases i with
  | update b => simp [decode, encode_eq_word, Instr.fields]
  | finalize => rfl

/-- A command word passed through the table's numbering is the word itself. -/
@[simp] theorem tableCommand_toNat (w : CmdWord) : tableCommand 16 w.toNat = w := by
  rw [tableCommand, Nat.mod_eq_of_lt w.isLt, BitVec.ofNat_toNat, BitVec.setWidth_eq]

/-! ### The accepting step (R71) -/

/-- No command faults or is refused: `exec` answers a next state (R170). -/
theorem exec_eq_next (i : Instr) (s : State) : ∃ t, exec i s = .next t := by
  cases i with
  | update b => exact ⟨_, exec_update s b⟩
  | finalize => exact ⟨_, exec_finalize s⟩

section Accept

variable {s : State} {d : HostDrive} {rest : List HostDrive} {w : CmdWord} {i : Instr}

theorem nextEvent_accept (hm : s.refusalMark = none) (hd : s.drives = d :: rest) (hr : d.rst = false)
    (hc : d.cmd = some w) (hv : s.response = none) (hw : decode w = .ok i) :
    s.nextEvent = .accept i d.digestReady := by
  have hv' : s.digestValid = false := by simp [State.digestValid, hv]
  simp only [nextEvent_drive s hm hd, edgeEvent_ready s hr hv', hc, acceptEvent_ok hw]

/-- An accepted command completes in its step, and a ready host takes the digest it offers (R7, R71). -/
theorem step_accept {t : State} (hm : s.refusalMark = none) (hd : s.drives = d :: rest) (hr : d.rst = false)
    (hc : d.cmd = some w) (hv : s.response = none) (hw : decode w = .ok i) (ht : exec i s.popDrive = .next t) :
    step s = .next (if d.digestReady then t.takeDigest else t) := by
  simp only [step, nextEvent_accept hm hd hr hc hv hw, runEvent, ht, complete]

end Accept

theorem popDrive_eq {s : State} {d : HostDrive} {rest : List HostDrive} (hd : s.drives = d :: rest) :
    s.popDrive = { s with drives := rest } := by
  simp [State.popDrive, hd]

/-- Using the drive that presents a word leaves a state with no digest waiting and no mark. -/
theorem popDrive_present (w : CmdWord) (s : State) :
    (s.present w).popDrive = { s with response := none, refusalMark := none } := rfl

/-- Settles O5: the accepting step is `exec` of the decoded command, and `withFetchWord` presents a word to it. -/
theorem stepRunsDecodedCommand : Obligations.StepRunsDecodedCommand := by
  refine ⟨fun s d rest w i hm hd hr hc hv hw => ?_, fun s i => ?_⟩
  · obtain ⟨t, ht⟩ := exec_eq_next i s.popDrive
    exact ⟨t, popDrive_eq hd ▸ ht, step_accept hm hd hr hc ((cmdReady_iff s).mp hv) hw ht⟩
  · obtain ⟨t, ht⟩ := exec_eq_next i (s.present (encode i)).popDrive
    refine ⟨t, popDrive_present (encode i) s ▸ ht, ?_⟩
    rw [State.withFetchWord, tableCommand_toNat]
    exact step_accept (d := presentDrive (encode i)) rfl rfl rfl rfl rfl (decode_encode i) ht

/-! ### A step of one of several cores (R179) -/

/-- A marked run is refused at every step (R11). -/
theorem step_setRefusalMark (w : CmdWord) (s : State) :
    step (s.setRefusalMark w) = .refused (.reservedCommand w) := by
  rw [step, nextEvent_marked _ (setRefusalMark_refusalMark s w), runEvent]

section Several

variable {cores : List State} {j k : Nat} {s t : State}

theorem stepInstance_of_next (hk : cores[k]? = some s) (h : step s = .next t) :
    stepInstance k cores = some (.next (cores.set k t)) := by
  simp [stepInstance, hk, h]

theorem stepInstance_of_refused {r : Refusal} (hj : cores[j]? = some s) (h : step s = .refused r) :
    stepInstance j cores = some (.refused r) := by
  simp [stepInstance, hj, h]

theorem afterInstance_getElem?_self (hj : cores[j]? = some s) :
    (afterInstance j cores)[j]? = some s.afterStep := by
  simp [afterInstance, hj]

theorem afterInstance_getElem?_ne (h : k ≠ j) : (afterInstance j cores)[k]? = cores[k]? := by
  simp [afterInstance, h.symm]

end Several

/-- Settles O46: the refused core carries the mark, which refuses its later steps, and the others' entries are kept. -/
theorem refusalStaysWithItsInstance : Obligations.RefusalStaysWithItsInstance := by
  intro cores j hj w h
  have hs : cores[j]? = some cores[j] := List.getElem?_eq_getElem hj
  have hmark : (afterInstance j cores)[j]? = some (cores[j].setRefusalMark w) := by
    rw [afterInstance_getElem?_self hs, afterStep_refused _ h]
  refine ⟨stepInstance_of_refused hs h, hmark, fun k hne => afterInstance_getElem?_ne hne,
    stepInstance_of_refused hmark (step_setRefusalMark w _), fun k hk t hne hstep => ?_⟩
  have hkept : (afterInstance j cores)[k]? = some cores[k] := by
    rw [afterInstance_getElem?_ne hne, List.getElem?_eq_getElem hk]
  exact stepInstance_of_next hkept hstep

end Sys2Proof.Proofs

/-! PROOFS. Scope: the registers of R20 over one step: who writes them, what they say of the message (R27), and that the
stale bytes and the compressor's registers are never read (R23, R28). -/

namespace Sys2Proof.Proofs

open Sys2Proof.Machine Sys2Proof.Laws

/-! ### UPDATE, field by field (R140) -/

section Update

variable (s : State) (b : Byte)

theorem update_h : (s.update b).h =
    if s.buflen = 63 then compress s.h (s.buf.set s.buflen.toNat b s.buflen.isLt) else s.h := by
  unfold State.update; split <;> simp

theorem update_buflen : (s.update b).buflen = if s.buflen = 63 then 0 else s.buflen + 1 := by
  unfold State.update; split <;> simp

theorem update_bitcnt : (s.update b).bitcnt = if s.buflen = 63 then s.bitcnt + 512 else s.bitcnt := by
  unfold State.update; split <;> simp

/-- Using the environment's next drive has no part in UPDATE. -/
theorem update_popDrive : s.popDrive.update b = (s.update b).popDrive := by
  by_cases h : s.buflen = 63
  · rw [update_of_eq s b h, update_of_eq s.popDrive b h]; rfl
  · rw [update_of_ne s b h, update_of_ne s.popDrive b h]; rfl

/-- A read of BUF after UPDATE gives the new byte at BUF[BUFLEN], and the old byte at every other place. -/
theorem readBuf_update (j : BitVec 6) :
    (s.update b).readBuf j = if s.buflen = j then b else s.readBuf j := by
  rw [← readBuf_writeBuf]
  simp only [State.readBuf, update_buf, writeBuf_buf]

variable {s}

/-- Below 63 pending bytes BUFLEN counts one more without a wrap. -/
theorem toNat_buflen_add_one (h : s.buflen ≠ 63) : (s.buflen + 1).toNat = s.buflen.toNat + 1 := by
  bv_omega

theorem pending_of_buflen_zero (h : s.buflen = 0) : s.pending = [] := by simp [State.pending, h]

/-- With 63 pending bytes the stored byte completes them to a block (R140). -/
theorem toList_set_of_full (h : s.buflen = 63) :
    (s.buf.set s.buflen.toNat b s.buflen.isLt).toList = s.pending ++ [b] := by
  rw [← take_set_pending, h, List.take_of_length_le (by simp)]

theorem pending_update_of_ne (h : s.buflen ≠ 63) : (s.update b).pending = s.pending ++ [b] := by
  rw [← take_set_pending, State.pending, update_buf, update_buflen, if_neg h, toNat_buflen_add_one h]

theorem pending_update_of_eq (h : s.buflen = 63) : (s.update b).pending = [] :=
  pending_of_buflen_zero (by rw [update_buflen, if_pos h])

end Update

/-- Settles O16: the stored byte either joins the pending bytes or completes them to the block that is compressed. -/
theorem updateAppendsToPending : Obligations.UpdateAppendsToPending := by
  intro b s
  refine ⟨s.update b, exec_update s b, pending_update_of_ne b, fun h => ⟨pending_update_of_eq b h, ?_⟩⟩
  exact ⟨_, toList_set_of_full b h, by rw [update_h, if_pos h]⟩

/-! ### What one step can do to the registers -/

/-- Two states with the same registers of R20, BUF with its stale bytes. -/
structure SameRegisters (s t : State) : Prop where
  h : s.h = t.h
  buf : s.buf = t.buf
  buflen : s.buflen = t.buflen
  bitcnt : s.bitcnt = t.bitcnt

theorem SameRegisters.sameArchitecture {s t : State} (e : SameRegisters s t) : SameArchitecture s t :=
  ⟨e.h, e.buflen, e.bitcnt, by rw [State.pending, e.buf, e.buflen, ← State.pending]⟩

section Step

variable {s t : State}

/-- A command is accepted only while no digest waits (R71). -/
theorem response_of_nextEvent_accept {i : Instr} {ready : Bool} (h : s.nextEvent = .accept i ready) :
    s.response = none := by
  cases hm : s.refusalMark with
  | some w => simp [nextEvent_marked s hm] at h
  | none =>
    cases hd : s.drives with
    | nil => simp [nextEvent_quiet s hm hd] at h
    | cons d rest =>
      rw [nextEvent_drive s hm hd] at h
      cases hr : d.rst with
      | true => simp [edgeEvent_reset s hr] at h
      | false =>
        cases hv : s.digestValid with
        | true => rw [edgeEvent_waiting s hr hv] at h; split at h <;> cases h
        | false => simpa [State.digestValid] using hv

/-- What a step that answers a next state does to the registers: a step that neither accepts a command nor resets keeps
them; reset and FINALIZE leave those of S0; an accepted UPDATE leaves those of its rule. -/
theorem step_register_cases (h : step s = .next t) :
    ((∀ m, messageAfter s.nextEvent m = m) ∧ SameRegisters t s ∧ (t.response = none ∨ t.response = s.response)) ∨
    ((s.nextEvent = .reset ∨ ∃ ready, s.nextEvent = .accept .finalize ready) ∧ t.isS0) ∨
    (∃ b ready, s.nextEvent = .accept (.update b) ready ∧ SameRegisters t (s.update b) ∧ t.response = none) := by
  obtain ⟨hmarked, hreserved, rfl⟩ := step_next_cases s h
  cases he : s.nextEvent with
  | marked w => exact absurd he (hmarked w)
  | reserved w => exact absurd he (hreserved w)
  | quiet => exact .inl ⟨fun _ => rfl, ⟨rfl, rfl, rfl, rfl⟩, .inr rfl⟩
  | hold => exact .inl ⟨fun _ => rfl, ⟨rfl, rfl, rfl, rfl⟩, .inr rfl⟩
  | idle => exact .inl ⟨fun _ => rfl, ⟨rfl, rfl, rfl, rfl⟩, .inr rfl⟩
  | take => exact .inl ⟨fun _ => rfl, by constructor <;> simp [afterEvent], .inl (by simp [afterEvent])⟩
  | reset => exact .inr (.inl ⟨.inl rfl, isS0_resetEvent _⟩)
  | accept i ready =>
    cases i with
    | finalize =>
      refine .inr (.inl ⟨.inr ⟨ready, rfl⟩, ?_⟩)
      have hS0 := isS0_finalize s.popDrive
      cases ready <;> simpa [afterEvent, State.isS0] using hS0
    | update b =>
      refine .inr (.inr ⟨b, ready, rfl, ?_, ?_⟩)
      · simp only [afterEvent, update_popDrive]
        cases ready with
        | false => exact ⟨rfl, rfl, rfl, rfl⟩
        | true => exact ⟨takeDigest_h _, takeDigest_buf _, takeDigest_buflen _, takeDigest_bitcnt _⟩
      · cases ready <;> simp [afterEvent, response_of_nextEvent_accept he]

end Step

/-- Settles O38, by the three things a step can do to the registers. -/
theorem onlyWritersOfHashStateAndCounter : Obligations.OnlyWritersOfHashStateAndCounter := by
  intro s t hstep
  obtain ⟨-, same, -⟩ | ⟨he, hh, -, hc⟩ | ⟨b, ready, he, same, -⟩ := step_register_cases hstep
  · exact .inl ⟨same.h, same.bitcnt⟩
  · exact .inr (.inl ⟨he, hh, hc⟩)
  · rw [same.h, same.bitcnt]
    by_cases hfull : s.buflen = 63
    · refine .inr (.inr ⟨b, ready, he, hfull, ?_, by rw [update_bitcnt, if_pos hfull]⟩)
      simp only [update_h, hfull]; rfl
    · exact .inl ⟨by rw [update_h, if_neg hfull], by rw [update_bitcnt, if_neg hfull]⟩

/-- Settles O44, by the three things a step can do to the registers. -/
theorem onlyWritersOfPendingBuffer : Obligations.OnlyWritersOfPendingBuffer := by
  intro s t hstep
  obtain ⟨-, same, -⟩ | ⟨he, -, hl, -⟩ | ⟨b, ready, he, same, -⟩ := step_register_cases hstep
  · exact .inl ⟨same.buf, same.buflen⟩
  · exact .inr (.inl ⟨he, hl⟩)
  · have hread (j : BitVec 6) : t.readBuf j = if s.buflen = j then b else s.readBuf j := by
      rw [← readBuf_update]; simp only [State.readBuf, same.buf]
    refine .inr (.inr ⟨b, ready, he, ?_, fun j hj => ?_, by rw [same.buflen, update_buflen]⟩)
    · rw [hread, if_pos rfl]
    · rw [hread, if_neg hj.symm]

/-! ### The invariant of the command boundaries (R27) -/

/-- 512 divides 2^64, so the wrap of BITCNT keeps it a multiple of 512 (R25, R173). -/
theorem toNat_add_512_mod (c : Count64) : (c + 512).toNat % 512 = c.toNat % 512 := by
  bv_omega

/-- Settles O36: UPDATE adds 512 or nothing to BITCNT and is accepted only while no digest waits; all else keeps the
registers or leaves S0. -/
theorem stepKeepsBoundaryInvariant : Obligations.StepKeepsBoundaryInvariant := by
  intro s t hinv hstep
  obtain ⟨-, same, hresp⟩ | ⟨-, hh, hl, hc⟩ | ⟨b, -, -, same, hresp⟩ := step_register_cases hstep
  · refine ⟨by rw [same.bitcnt]; exact hinv.bitcnt, fun hwait => ?_⟩
    obtain hnone | hkept := hresp
    · simp [hnone] at hwait
    · rw [hkept] at hwait
      simpa only [State.isS0, same.h, same.buflen, same.bitcnt] using hinv.waiting hwait
  · exact ⟨by rw [hc]; rfl, fun _ => ⟨hh, hl, hc⟩⟩
  · refine ⟨?_, by simp [hresp]⟩
    rw [same.bitcnt, update_bitcnt]
    split
    · rw [toNat_add_512_mod]; exact hinv.bitcnt
    · exact hinv.bitcnt

/-! ### The represented message (R27, R123) -/

/-- A block of a byte sequence is 64 of its bytes (R51). -/
theorem toList_blockAt {l : List Byte} {j : Nat} (h : 64 * j + 64 ≤ l.length) :
    (blockAt l j).toList = (l.drop (64 * j)).take 64 := by
  apply List.ext_getElem
  · simp; omega
  · intro i hi _
    have hi' : i < 64 := by simpa using hi
    simp [blockAt, List.getElem?_eq_getElem (show 64 * j + i < l.length by omega)]

/-- Later bytes change no block that is already full. -/
theorem blockAt_append {m : List Byte} (l : List Byte) {j : Nat} (h : 64 * j + 64 ≤ m.length) :
    blockAt (m ++ l) j = blockAt m j := by
  apply block_ext
  rw [toList_blockAt (by simp; omega), toList_blockAt h, List.drop_append_of_le_length (by omega),
    List.take_append_of_le_length (by simp; omega)]

/-- A byte that completes no block leaves the full blocks as they are. -/
theorem fullBlocks_snoc_of_ne {m : List Byte} (b : Byte) (h : m.length % 64 ≠ 63) :
    fullBlocks (m ++ [b]) = fullBlocks m := by
  have hlen : (m ++ [b]).length / 64 = m.length / 64 := by simp; omega
  rw [fullBlocks, fullBlocks, hlen]
  refine List.map_congr_left fun j hj => blockAt_append [b] ?_
  have := List.mem_range.mp hj
  omega

/-- The byte that completes a block adds it to the full blocks: the bytes since the last full block, and the new one. -/
theorem fullBlocks_snoc_of_eq {m : List Byte} {b : Byte} {blk : Block} (h : m.length % 64 = 63)
    (hblk : blk.toList = m.drop (64 * (m.length / 64)) ++ [b]) :
    fullBlocks (m ++ [b]) = fullBlocks m ++ [blk] := by
  have hlen : (m ++ [b]).length / 64 = m.length / 64 + 1 := by simp; omega
  have hlast : blockAt (m ++ [b]) (m.length / 64) = blk := by
    apply block_ext
    rw [toList_blockAt (by simp; omega), hblk, List.drop_append_of_le_length (by omega),
      List.take_of_length_le (by simp; omega)]
  rw [fullBlocks, hlen, List.range_succ, List.map_append, List.map_singleton, hlast, fullBlocks]
  rw [List.map_congr_left fun j hj => blockAt_append [b] (by have := List.mem_range.mp hj; omega)]

/-- R123: one more block is one more compression at the end of the chain. -/
theorem chain_snoc (hin : HashState) (blks : List Block) (blk : Block) :
    chain hin (blks ++ [blk]) = compress (chain hin blks) blk := by
  simp [chain]

section Represents

variable {s t : State} {m : List Byte}

/-- What a state represents is a matter of its architecture alone. -/
theorem represents_congr (same : SameArchitecture t s) (hrep : s.Represents m) : t.Represents m where
  h := same.h.trans hrep.h
  buflen := same.buflen ▸ hrep.buflen
  bitcnt := same.bitcnt.trans hrep.bitcnt
  pending := same.pending.trans hrep.pending

/-- S0 represents the empty message (R34). -/
theorem represents_nil_of_isS0 (hS0 : s.isS0) : s.Represents [] := by
  obtain ⟨hh, hl, hc⟩ := hS0
  exact ⟨hh, by simp [hl], by simp [hc], by simp [pending_of_buflen_zero hl]⟩

/-- UPDATE appends its byte to the represented message. -/
theorem represents_update (b : Byte) (hrep : s.Represents m) : (s.update b).Represents (m ++ [b]) := by
  obtain ⟨hh, hl, hc, hp⟩ := hrep
  by_cases hfull : s.buflen = 63
  · have hmod : m.length % 64 = 63 := by rw [← hl, hfull]; rfl
    have hdiv : (m.length + 1) / 64 = m.length / 64 + 1 := by omega
    have hblk := (toList_set_of_full b hfull).trans (by rw [hp])
    constructor
    · rw [fullBlocks_snoc_of_eq hmod hblk, chain_snoc, update_h, if_pos hfull, hh]
    · rw [update_buflen, if_pos hfull]
      simp; omega
    · rw [update_bitcnt, if_pos hfull, hc, List.length_append, List.length_singleton, hdiv, Nat.mul_add,
        BitVec.ofNat_add]
      rfl
    · rw [pending_update_of_eq b hfull, List.drop_of_length_le (by simp; omega)]
  · have hmod : m.length % 64 ≠ 63 := fun h => hfull (BitVec.eq_of_toNat_eq (hl.trans h))
    have hdiv : (m.length + 1) / 64 = m.length / 64 := by omega
    constructor
    · rw [fullBlocks_snoc_of_ne b hmod, update_h, if_neg hfull, hh]
    · rw [update_buflen, if_neg hfull, toNat_buflen_add_one hfull, hl]
      simp; omega
    · rw [update_bitcnt, if_neg hfull, hc, List.length_append, List.length_singleton, hdiv]
    · rw [pending_update_of_ne b hfull, hp, List.length_append, List.length_singleton, hdiv,
        List.drop_append_of_le_length (by omega)]

end Represents

/-- Settles O37, by the three things a step can do to the registers. -/
theorem stepKeepsRepresentedMessage : Obligations.StepKeepsRepresentedMessage := by
  intro s t m hrep hstep
  obtain ⟨hm, same, -⟩ | ⟨he, hS0⟩ | ⟨b, ready, he, same, -⟩ := step_register_cases hstep
  · rw [hm]; exact represents_congr same.sameArchitecture hrep
  · have hm : messageAfter s.nextEvent m = [] := by
      obtain he | ⟨ready, he⟩ := he <;> rw [he] <;> rfl
    rw [hm]; exact represents_nil_of_isS0 hS0
  · rw [he]; exact represents_congr same.sameArchitecture (represents_update b hrep)

/-- Settles O35: every field of the launch state is written out in its definition. -/
theorem launchStateMeetsInvariant : Obligations.LaunchStateMeetsInvariant := by
  have hS0 : State.reset.isS0 := ⟨rfl, rfl, rfl⟩
  exact ⟨hS0, rfl, rfl, ⟨rfl, fun _ => hS0⟩, represents_nil_of_isS0 hS0⟩

/-! ### No rule reads a stale byte or the compressor's registers (R23, R28) -/

section Stale

variable {s s' : State}

theorem sameArchitecture_of_isS0 (hS0 : s.isS0) (hS0' : s'.isS0) : SameArchitecture s s' := by
  obtain ⟨hh, hl, hc⟩ := hS0
  obtain ⟨hh', hl', hc'⟩ := hS0'
  exact ⟨hh.trans hh'.symm, hl.trans hl'.symm, hc.trans hc'.symm,
    (pending_of_buflen_zero hl).trans (pending_of_buflen_zero hl').symm⟩

/-- UPDATE reads the architecture alone: the block it compresses is made of the pending bytes and its own. -/
theorem sameArchitecture_update (b : Byte) (e : SameArchitecture s s') :
    SameArchitecture (s.update b) (s'.update b) := by
  have hbuflen : (s.update b).buflen = (s'.update b).buflen := by rw [update_buflen, update_buflen, e.buflen]
  have hbitcnt : (s.update b).bitcnt = (s'.update b).bitcnt := by
    rw [update_bitcnt, update_bitcnt, e.buflen, e.bitcnt]
  by_cases hfull : s.buflen = 63
  · have hfull' : s'.buflen = 63 := e.buflen ▸ hfull
    have hblk : s.buf.set s.buflen.toNat b s.buflen.isLt = s'.buf.set s'.buflen.toNat b s'.buflen.isLt :=
      block_ext (by rw [toList_set_of_full b hfull, toList_set_of_full b hfull', e.pending])
    refine ⟨?_, hbuflen, hbitcnt, (pending_update_of_eq b hfull).trans (pending_update_of_eq b hfull').symm⟩
    rw [update_h, update_h, if_pos hfull, if_pos hfull', hblk, e.h]
  · have hfull' : s'.buflen ≠ 63 := e.buflen ▸ hfull
    refine ⟨by rw [update_h, update_h, if_neg hfull, if_neg hfull', e.h], hbuflen, hbitcnt, ?_⟩
    rw [pending_update_of_ne b hfull, pending_update_of_ne b hfull', e.pending]

theorem sameArchitecture_finalize (s s' : State) : SameArchitecture s.finalize s'.finalize :=
  sameArchitecture_of_isS0 (isS0_finalize s) (isS0_finalize s')

/-- The padded blocks, and so the digest, are made of the architecture alone (R144 to R147). -/
theorem finalize_response_congr (e : SameArchitecture s s') : s.finalize.response = s'.finalize.response := by
  have hbits : s.messageBits = s'.messageBits := by rw [State.messageBits, e.bitcnt, e.buflen, State.messageBits]
  have hhout : s.finalCompress.hout = s'.finalCompress.hout := by
    simp only [hout_finalCompress, State.padOne, State.padFirst, State.padSecond, e.h, e.buflen, e.pending, hbits]
  rw [finalize_response, finalize_response, hhout]

theorem sameButStale_popDrive (e : SameButStale s s') : SameButStale s.popDrive s'.popDrive where
  h := e.h
  buflen := e.buflen
  bitcnt := e.bitcnt
  pending := e.pending
  response := e.response
  refusalMark := e.refusalMark
  drives := congrArg List.tail e.drives
  delivered := e.delivered

@[simp] theorem takeDigest_pending (s : State) : s.takeDigest.pending = s.pending := by simp [State.pending]

theorem sameButStale_takeDigest (e : SameButStale s s') : SameButStale s.takeDigest s'.takeDigest where
  h := by simpa using e.h
  buflen := by simpa using e.buflen
  bitcnt := by simpa using e.bitcnt
  pending := by simpa using e.pending
  response := by simp
  refusalMark := by simpa using e.refusalMark
  drives := by simpa using e.drives
  delivered := by simp [e.delivered, e.response]

theorem sameButStale_resetEvent (e : SameButStale s s') : SameButStale s.resetEvent s'.resetEvent where
  toSameArchitecture := sameArchitecture_of_isS0 (isS0_resetEvent s) (isS0_resetEvent s')
  response := by simp
  refusalMark := by simpa using e.refusalMark
  drives := by simpa using e.drives
  delivered := by simpa using e.delivered

theorem sameButStale_update (b : Byte) (e : SameButStale s s') : SameButStale (s.update b) (s'.update b) where
  toSameArchitecture := sameArchitecture_update b e.toSameArchitecture
  response := by simpa using e.response
  refusalMark := by simpa using e.refusalMark
  drives := by simpa using e.drives
  delivered := by simpa using e.delivered

theorem sameButStale_finalize (e : SameButStale s s') : SameButStale s.finalize s'.finalize where
  toSameArchitecture := sameArchitecture_finalize s s'
  response := finalize_response_congr e.toSameArchitecture
  refusalMark := by simpa using e.refusalMark
  drives := by simpa using e.drives
  delivered := by simpa using e.delivered

/-- Every event but a refusal leaves states that again differ only in what no rule reads. -/
theorem sameButStale_afterEvent (ev : Event) (e : SameButStale s s') :
    SameButStale (afterEvent ev s) (afterEvent ev s') := by
  have epop := sameButStale_popDrive e
  cases ev with
  | marked w => exact e
  | reserved w => exact e
  | quiet => exact e
  | hold => exact epop
  | idle => exact epop
  | take => exact sameButStale_takeDigest epop
  | reset => exact sameButStale_resetEvent epop
  | accept i ready =>
    cases i with
    | update b =>
      cases ready with
      | true => exact sameButStale_takeDigest (sameButStale_update b epop)
      | false => exact sameButStale_update b epop
    | finalize =>
      cases ready with
      | true => exact sameButStale_takeDigest (sameButStale_finalize epop)
      | false => exact sameButStale_finalize epop

/-- Two such states step alike: to states that again differ only there, or to the same refusal. -/
theorem sameButStale_step (e : SameButStale s s') :
    (∃ t t', step s = .next t ∧ step s' = .next t' ∧ SameButStale t t') ∨
      ∃ r, step s = .refused r ∧ step s' = .refused r := by
  have hev : s'.nextEvent = s.nextEvent := nextEvent_congr e.response.symm e.refusalMark.symm e.drives.symm
  rw [step_eq s, step_eq s', hev]
  cases s.nextEvent with
  | marked w => exact .inr ⟨_, rfl, rfl⟩
  | reserved w => exact .inr ⟨_, rfl, rfl⟩
  | _ => exact .inl ⟨_, _, rfl, rfl, sameButStale_afterEvent _ e⟩

end Stale

/-- Settles O39: each command and each event reads the architecture, the response channel and the environment alone. -/
theorem staleStateIsNeverRead : Obligations.StaleStateIsNeverRead := by
  refine ⟨fun s s' e => ⟨fun b => ?_, ?_⟩, fun s s' e => ⟨fun i => ?_, sameButStale_step e⟩⟩
  · exact ⟨_, _, exec_update s b, exec_update s' b, sameArchitecture_update b e⟩
  · exact ⟨_, _, exec_finalize s, exec_finalize s', sameArchitecture_finalize s s', finalize_response_congr e⟩
  · cases i with
    | update b => exact ⟨_, _, exec_update s b, exec_update s' b, sameButStale_update b e⟩
    | finalize => exact ⟨_, _, exec_finalize s, exec_finalize s', sameButStale_finalize e⟩

end Sys2Proof.Proofs

/-! PROOFS. Scope: bytes in and out of the core at FINALIZE: the padded blocks (R144 to R147) and the byte order of the digest
(R54, R79). -/

namespace Sys2Proof.Proofs

open Sys2Proof.Machine Sys2Proof.Laws

/-! ### The padded blocks, byte for byte (R145, R146) -/

section Padding

variable (s : State)

/-- The one final block: 56 bytes of message and padding, then the length field (R145). -/
theorem toList_padOne (h : s.buflen.toNat ≤ 55) :
    (s.padOne h).toList =
      (s.pending ++ [0x80] ++ List.replicate (55 - s.buflen.toNat) 0) ++ beBytes 8 s.messageBits := by
  rw [State.padOne, toList_blockOf, padOneBytes, State.length_pending, zeros]

/-- The first of two final blocks has no length field (R146). -/
theorem toList_padFirst :
    s.padFirst.toList = s.pending ++ [0x80] ++ List.replicate (63 - s.buflen.toNat) 0 := by
  rw [State.padFirst, toList_blockOf, padFirstBytes, State.length_pending, zeros]

/-- The second of two final blocks: 56 zero bytes, then the length field (R146). -/
theorem toList_padSecond : s.padSecond.toList = List.replicate 56 0 ++ beBytes 8 s.messageBits := by
  rw [State.padSecond, toList_blockOf, padSecondBytes, zeros]

theorem finalize_response_of_le (h : s.buflen.toNat ≤ 55) :
    s.finalize.response = some (digestOf (compress s.h (s.padOne h))) := by
  rw [finalize_response, hout_finalCompress, dif_pos h]

theorem finalize_response_of_ge (h : 56 ≤ s.buflen.toNat) :
    s.finalize.response = some (digestOf (compress (compress s.h s.padFirst) s.padSecond)) := by
  rw [finalize_response, hout_finalCompress, dif_neg (by omega)]

variable {blk : Block} {pre : List Byte} {len : Count64}

theorem length_before_lengthField (hblk : blk.toList = pre ++ beBytes 8 len) : pre.length = 56 := by
  have hlen := congrArg List.length hblk
  rw [Vector.length_toList, List.length_append, length_beBytes] at hlen
  omega

/-- A block that ends in the length field starts with the 56 bytes before it. -/
theorem take_before_lengthField (hblk : blk.toList = pre ++ beBytes 8 len) : blk.toList.take 56 = pre := by
  rw [hblk, List.take_left' (length_before_lengthField hblk)]

/-- Byte 56 + k of a block that ends in the length field is bits [63-8k : 56-8k] of the length (R53). -/
theorem getElem_lengthField (hblk : blk.toList = pre ++ beBytes 8 len) {k : Nat} (hk : k < 8) :
    blk[56 + k] = len.extractLsb' (56 - 8 * k) 8 := by
  have hpre := length_before_lengthField hblk
  have hget : blk.toList[56 + k]? = some (len.extractLsb' (56 - 8 * k) 8) := by
    rw [hblk, List.getElem?_append_right (by omega), hpre, Nat.add_sub_cancel_left, beBytes_getElem? 8 len k hk]
  rw [← Vector.getElem_toList]
  exact (List.getElem?_eq_some_iff.mp hget).2

end Padding

/-- Settles O18: the blocks are those of R145 and R146, and the digest is of one compression or of two. -/
theorem finalizeEffect : Obligations.FinalizeEffect := by
  intro s
  refine ⟨s.finalize, exec_finalize s, isS0_finalize s, fun h => ?_, fun h => ?_⟩
  · have hblk := toList_padOne s h
    exact ⟨s.padOne h, take_before_lengthField hblk, fun _ hk => getElem_lengthField hblk hk,
      finalize_response_of_le s h⟩
  · have hblk := toList_padSecond s
    exact ⟨s.padFirst, s.padSecond, toList_padFirst s, take_before_lengthField hblk,
      fun _ hk => getElem_lengthField hblk hk, finalize_response_of_ge s h⟩

/-! ### The byte order of the digest (R54, R79) -/

section Port

variable (d : List Byte)

theorem portOfBytes_nil : portOfBytes [] = 0#256 := rfl

theorem portOfBytes_concat (b : Byte) : portOfBytes (d ++ [b]) = portOfBytes d <<< 8 ||| b.setWidth 256 := by
  simp [portOfBytes]

/-- The first byte on the port has the highest bits: byte k of n has n - 1 - k bytes below it (R79). -/
theorem extractLsb'_portOfBytes (k : Nat) (hk : k < d.length) (hd : d.length ≤ 32) :
    (portOfBytes d).extractLsb' (8 * (d.length - 1 - k)) 8 = d[k] := by
  induction d using List.reverseRecOn with
  | nil => simp at hk
  | append_singleton d b ih =>
    simp only [List.length_append, List.length_singleton] at hk hd
    rw [portOfBytes_concat]
    -- either the byte just appended, or one that the shift by eight has moved up
    obtain rfl | hlt : k = d.length ∨ k < d.length := by omega
    · ext i hi
      simp [hi, show i < 256 by omega, ← BitVec.getLsbD_eq_getElem]
    · rw [List.getElem_append_left hlt, ← ih hlt (by omega)]
      ext i hi
      have hsub : 8 * (d.length - k) + i - 8 = 8 * (d.length - 1 - k) + i := by omega
      have hbig : b.getLsbD (8 * (d.length - k) + i) = false := BitVec.getLsbD_of_ge _ _ (by omega)
      simp [hsub, hbig]
      omega

theorem digestByte_portOfBytes (hd : d.length = 32) (k : Fin 32) :
    digestByte (portOfBytes d) k = d[k.val] := by
  have hpos : 8 * (d.length - 1 - k.val) = 248 - 8 * k.val := by omega
  rw [digestByte, ← hpos, extractLsb'_portOfBytes d k.val (by omega) hd.le]

/-- On the port a concatenation is its two parts, the higher one shifted above the lower. -/
theorem setWidth_append_eq_or {n m : Nat} (x : BitVec n) (y : BitVec m) :
    (x ++ y).setWidth 256 = x.setWidth 256 <<< m ||| y.setWidth 256 := by
  ext i
  rw [BitVec.getElem_setWidth, BitVec.getLsbD_append]
  by_cases h : i < m
  · simp [h]
  · simp [h, BitVec.getLsbD_of_ge y i (by omega)]

/-- A word is its four bytes, the first highest (R54). -/
theorem word_eq_append_bytes (v : Word) :
    v.extractLsb' 24 8 ++ v.extractLsb' 16 8 ++ v.extractLsb' 8 8 ++ v.extractLsb' 0 8 = v := by
  have h16 : v.extractLsb' 24 8 ++ v.extractLsb' 16 8 = v.extractLsb' 16 16 :=
    BitVec.extractLsb'_append_extractLsb'_eq_extractLsb' rfl
  have h24 : v.extractLsb' 16 16 ++ v.extractLsb' 8 8 = v.extractLsb' 8 24 :=
    BitVec.extractLsb'_append_extractLsb'_eq_extractLsb' rfl
  have h32 : v.extractLsb' 8 24 ++ v.extractLsb' 0 8 = v.extractLsb' 0 32 :=
    BitVec.extractLsb'_append_extractLsb'_eq_extractLsb' rfl
  rw [h16, h24, h32, BitVec.extractLsb'_eq_self]

/-- One more word on the port stands below what was there before. -/
theorem portOfBytes_append_beBytes (v : Word) :
    portOfBytes (d ++ beBytes 4 v) = portOfBytes d <<< 32 ||| v.setWidth 256 := by
  rw [beBytes_four, List.append_cons, List.append_cons, List.append_cons, List.append_cons, List.append_nil]
  conv_rhs => rw [← word_eq_append_bytes v]
  simp only [portOfBytes_concat, setWidth_append_eq_or, BitVec.shiftLeft_or_distrib, ← BitVec.shiftLeft_add,
    BitVec.or_assoc]

end Port

/-- The byte sequence has four bytes of each word, the words in order (R54). -/
theorem getElem?_flatMap_beBytes (l : List Word) (j k : Nat) (hj : j < l.length) (hk : k < 4) :
    (l.flatMap (beBytes 4))[4 * j + k]? = some (l[j].extractLsb' (24 - 8 * k) 8) := by
  induction l generalizing j with
  | nil => simp at hj
  | cons v l ih =>
    rw [List.flatMap_cons]
    cases j with
    | zero =>
      rw [List.getElem?_append_left (by simp; omega), Nat.mul_zero, Nat.zero_add, beBytes_getElem? 4 v k hk]
      rfl
    | succ j =>
      have hidx : 4 * (j + 1) + k - (beBytes 4 v).length = 4 * j + k := by simp; omega
      rw [List.getElem?_append_right (by simp; omega), hidx]
      exact ih j (by simpa using hj)

theorem digestBytes_getElem? (hf : HashState) (j k : Nat) (hj : j < 8) (hk : k < 4) :
    (digestBytes hf)[4 * j + k]? = some (hf[j].extractLsb' (24 - 8 * k) 8) := by
  rw [digestBytes, getElem?_flatMap_beBytes _ j k (by simpa using hj) hk, Vector.getElem_toList]

/-- The DIGEST port is the words one after another, the first highest (R79). -/
theorem digestOf_eq_append (hf : HashState) :
    digestOf hf = hf[0] ++ hf[1] ++ hf[2] ++ hf[3] ++ hf[4] ++ hf[5] ++ hf[6] ++ hf[7] := by
  have hfull : (hf[0] ++ hf[1] ++ hf[2] ++ hf[3] ++ hf[4] ++ hf[5] ++ hf[6] ++ hf[7]).setWidth 256 = _ :=
    BitVec.setWidth_eq _
  rw [← hfull, digestOf, digestBytes_eq, ← List.nil_append (beBytes 4 hf[0])]
  simp only [portOfBytes_append_beBytes, setWidth_append_eq_or, portOfBytes_nil, BitVec.zero_shiftLeft, BitVec.zero_or]

/-- Settles O28: the port's bytes are read back from the byte sequence, the port's words put together from it. -/
theorem digestByteOrder : Obligations.DigestByteOrder := by
  refine fun hf => ⟨fun j k hj hk => ?_, digestOf_eq_append hf⟩
  have hseq := digestBytes_getElem? hf j k hj hk
  refine ⟨?_, hseq⟩
  rw [digestOf, digestByte_portOfBytes _ (length_digestBytes hf)]
  exact (List.getElem?_eq_some_iff.mp hseq).2

end Sys2Proof.Proofs

/-! PROOFS. Scope: the encoding of the commands (R73 to R76), the assembler (R81, R82), and what a step does with a word
presented: a reserved word refused (R75), a digest taken (R72), a run of UPDATE words (R80). -/

namespace Sys2Proof.Proofs

open Sys2Proof.Machine Sys2Proof.Laws

/-! ### The decoder on every word (R73 to R76) -/

section Decoder

variable {w : CmdWord} {b : Byte}

/-- A word is its two fields, OP above DATA (R73). -/
theorem word_opField_dataField (w : CmdWord) : Cmd16.word ⟨opField w, dataField w⟩ = w := by
  have h : opField w ++ dataField w = w.extractLsb' 0 16 := BitVec.extractLsb'_append_extractLsb'_eq_extractLsb' rfl
  rw [Cmd16.word, h, BitVec.extractLsb'_eq_self]

/-- What the decoder answers: it reads OP first, and the FINALIZE word, whose OP is 0x02, after it (R76). -/
theorem decode_cases (w : CmdWord) :
    (opField w = 0x01#8 ∧ w ≠ 0x0200#16 ∧ decode w = .ok (.update (dataField w))) ∨
    (opField w ≠ 0x01#8 ∧ w = 0x0200#16 ∧ decode w = .ok .finalize) ∨
    (opField w ≠ 0x01#8 ∧ w ≠ 0x0200#16 ∧ decode w = .error (.reserved w)) := by
  by_cases hop : opField w = 0x01#8
  · have hne : w ≠ 0x0200#16 := by rintro rfl; exact absurd hop (by decide)
    exact .inl ⟨hop, hne, if_pos hop⟩
  · by_cases hw : w = 0x0200#16
    · exact .inr (.inl ⟨hop, hw, (if_neg hop).trans (if_pos hw)⟩)
    · exact .inr (.inr ⟨hop, hw, (if_neg hop).trans (if_neg hw)⟩)

theorem decode_eq_update_iff : decode w = .ok (.update b) ↔ opField w = 0x01#8 ∧ b = dataField w := by
  obtain ⟨hop, -, hdec⟩ | ⟨hop, -, hdec⟩ | ⟨hop, -, hdec⟩ := decode_cases w <;> simp [hdec, hop, eq_comm]

theorem decode_eq_finalize_iff : decode w = .ok .finalize ↔ w = 0x0200#16 := by
  obtain ⟨-, hw, hdec⟩ | ⟨-, hw, hdec⟩ | ⟨-, hw, hdec⟩ := decode_cases w
  · simp [hdec, hw]
  · exact iff_of_true hdec hw
  · simp [hdec, hw]

theorem decode_eq_reserved_iff : decode w = .error (.reserved w) ↔ opField w ≠ 0x01#8 ∧ w ≠ 0x0200#16 := by
  obtain ⟨hop, hw, hdec⟩ | ⟨hop, hw, hdec⟩ | ⟨hop, hw, hdec⟩ := decode_cases w
  · exact iff_of_false (by simp [hdec]) fun h => h.1 hop
  · exact iff_of_false (by simp [hdec]) fun h => h.2 hw
  · exact iff_of_true hdec ⟨hop, hw⟩

/-- No word but its encoding decodes to a command. -/
theorem encode_of_decode {i : Instr} (h : decode w = .ok i) : encode i = w := by
  cases i with
  | update b =>
    obtain ⟨hop, rfl⟩ := decode_eq_update_iff.mp h
    calc encode (.update (dataField w)) = Cmd16.word ⟨0x01#8, dataField w⟩ := encode_eq_word _
      _ = Cmd16.word ⟨opField w, dataField w⟩ := by rw [hop]
      _ = w := word_opField_dataField w
  | finalize => exact (decode_eq_finalize_iff.mp h).symm

end Decoder

/-- Settles O3: the encoding is the concatenation of the fields, and the decoder reads the fields back. -/
theorem encodeDecodeRoundTrip : Obligations.EncodeDecodeRoundTrip :=
  ⟨fun i _ => ⟨decode_encode i, encode_eq_word i⟩, fun _ _ => encode_of_decode⟩

/-- The mask 0xFF00 keeps the OP field and clears the DATA field. -/
theorem and_opMask (w : CmdWord) : w &&& 0xFF00 = opField w ++ 0#8 := by
  have hmask : (0xFF00 : CmdWord) = BitVec.allOnes 8 ++ 0#8 := rfl
  conv_lhs => rw [← word_opField_dataField w, Cmd16.word, hmask, BitVec.and_append]
  rw [BitVec.and_allOnes, BitVec.and_zero]

theorem and_opMask_eq_iff (w : CmdWord) : w &&& 0xFF00 = 0x0100 ↔ opField w = 0x01 := by
  have hmatch : (0x0100 : CmdWord) = (0x01 : Byte) ++ 0#8 := rfl
  rw [and_opMask, hmatch, BitVec.append_left_inj]

theorem and_fullMask (w : CmdWord) : w &&& 0xFFFF = w := BitVec.and_allOnes

theorem dataField_eq_setWidth (w : CmdWord) : dataField w = w.setWidth 8 := (BitVec.setWidth_eq_extractLsb' (by decide)).symm

/-- Settles O2: a mask and match says of a word what the decoder reads in its fields. -/
theorem decodeAgreesWithMatchAndMask : Obligations.DecodeAgreesWithMatchAndMask := by
  intro w
  rw [and_fullMask, ne_eq, and_opMask_eq_iff, ← dataField_eq_setWidth]
  exact ⟨fun _ => decode_eq_update_iff, decode_eq_finalize_iff, decode_eq_reserved_iff⟩

/-- Settles O1: each word's fields are literals. -/
theorem decodeOfSpecWords : Obligations.DecodeOfSpecWords := by
  unfold Obligations.DecodeOfSpecWords
  decide

/-! ### The assembler (R81, R82) -/

section Assembler

variable {a : Asm}

theorem assemble_of_wf (h : a.wf = true) : assemble a = .ok a.words := if_pos h

theorem assemble_of_not_wf (h : a.wf = false) : assemble a = .error (.illFormed a) := by simp [assemble, h]

/-- UPDATE with an imm8 of 0..255 has the word 256 + imm8 (R81). -/
theorem encode_update_ofNat {n : Nat} (h : n < 256) :
    encode (.update (BitVec.ofNat 8 n)) = BitVec.ofNat 16 (256 + n) := by
  apply BitVec.eq_of_toNat_eq
  rw [encode_eq_word, Cmd16.word, Instr.fields, BitVec.toNat_append, BitVec.toNat_ofNat, Nat.mod_eq_of_lt h,
    ← Nat.shiftLeft_add_eq_or_of_lt h, BitVec.toNat_ofNat, Nat.mod_eq_of_lt (by omega)]
  rfl

theorem value_lt_of_wf {b : Imm} (h : b.wf = true) : b.value < 256 := by
  cases b with
  | num n => exact of_decide_eq_true h
  | char c =>
    have hascii : c.toNat < 128 := by simpa [Imm.wf, isAscii] using h
    exact hascii.trans (by decide)

theorem encode_update_byte {b : Imm} (h : b.wf = true) :
    encode (.update b.byte) = BitVec.ofNat 16 (256 + b.value) := encode_update_ofNat (value_lt_of_wf h)

theorem words_updateBytes {bs : List Imm} (h : ∀ b ∈ bs, b.wf = true) :
    (Asm.updateBytes bs).words = bs.map fun b => BitVec.ofNat 16 (256 + b.value) := by
  simp only [Asm.words, updateCommands, List.map_map]
  exact List.map_congr_left fun b hb => encode_update_byte (h b hb)

theorem words_updateStr {s : List Char} (h : ∀ c ∈ s, c.toNat < 128) :
    (Asm.updateStr s).words = s.map fun c => BitVec.ofNat 16 (256 + c.toNat) := by
  simp only [Asm.words, updateCommands, asciiBytes, List.map_map]
  exact List.map_congr_left fun c hc => encode_update_ofNat ((h c hc).trans (by decide))

/-- HASH is UPDATE.STR, then FINALIZE (R82). -/
theorem words_hash (s : List Char) : (Asm.hash s).words = (Asm.updateStr s).words ++ [0x0200] := by
  simp [Asm.words, messageCommands, encode]

theorem words_updateFill {b : Imm} (n : Nat) (h : b.wf = true) :
    (Asm.updateFill b n).words = List.replicate n (BitVec.ofNat 16 (256 + b.value)) := by
  simp only [Asm.words, updateCommands, List.map_replicate, encode_update_byte h]

/-- Every statement but `.word` expands to encoded commands (R82). -/
theorem words_eq_map_encode (a : Asm) : (∃ w, a = .rawWord w) ∨ ∃ is : List Instr, a.words = is.map encode := by
  cases a with
  | rawWord w => exact .inl ⟨w, rfl⟩
  | update b => exact .inr ⟨[.update b.byte], rfl⟩
  | finalize => exact .inr ⟨[.finalize], rfl⟩
  | updateBytes bs => exact .inr ⟨_, rfl⟩
  | updateStr s => exact .inr ⟨_, rfl⟩
  | updateFill b n => exact .inr ⟨_, rfl⟩
  | hash s => exact .inr ⟨_, rfl⟩

theorem eq_words_of_assemble_ok {ws : List CmdWord} (h : assemble a = .ok ws) : ws = a.words := by
  cases hwf : a.wf with
  | true => rw [assemble_of_wf hwf] at h; exact (Except.ok.inj h).symm
  | false => rw [assemble_of_not_wf hwf] at h; cases h

/-- Only `.word` can give a word that decodes to no command (R82). -/
theorem decodes_of_assemble_ok {ws : List CmdWord} (h : assemble a = .ok ws) :
    (∃ w, a = .rawWord w) ∨ ∀ x ∈ ws, ∃ i, decode x = .ok i := by
  rw [eq_words_of_assemble_ok h]
  obtain hraw | ⟨is, his⟩ := words_eq_map_encode a
  · exact .inl hraw
  · rw [his]
    exact .inr (List.forall_mem_map.mpr fun i _ => ⟨i, decode_encode i⟩)

end Assembler

/-- Settles O4: a well-formed statement's words are those of its expansion, each UPDATE word 256 + its byte. -/
theorem assemblerExpansions : Obligations.AssemblerExpansions := by
  refine ⟨fun a => assemble_of_not_wf, fun n hn => assemble_of_not_wf ?_, fun b hb => ?_, rfl, fun bs hbs => ?_,
    fun s hs => ?_, fun b n hb => ?_, fun w hw => ?_, fun a ws => decodes_of_assemble_ok⟩
  · simpa [Asm.wf, Imm.wf] using hn
  · rw [assemble_of_wf (a := .update b) hb, Asm.words, encode_update_byte hb]
  · rw [assemble_of_wf (a := .updateBytes bs) (List.all_eq_true.mpr hbs), words_updateBytes hbs]
  · have hwf : s.all isAscii = true := by simpa [isAscii] using hs
    rw [assemble_of_wf (a := .updateStr s) hwf, assemble_of_wf (a := .hash s) hwf, words_hash, words_updateStr hs]
    exact ⟨rfl, rfl⟩
  · rw [assemble_of_wf (a := .updateFill b n) hb, words_updateFill n hb]
  · exact assemble_of_wf (a := .rawWord w) (decide_eq_true hw)

/-! ### A reserved word (R75) and an offered digest (R72) -/

section Edge

variable {s : State} {d : HostDrive} {rest : List HostDrive}

/-- The step that accepts a word the decoder rejects is refused with it (R75). -/
theorem step_reserved {w : CmdWord} {e : DecodeError} (hm : s.refusalMark = none) (hd : s.drives = d :: rest)
    (hr : d.rst = false) (hc : d.cmd = some w) (hv : s.response = none) (hw : decode w = .error e) :
    step s = .refused (.reservedCommand w) := by
  have hv' : s.digestValid = false := by simp [State.digestValid, hv]
  have hev : s.nextEvent = .reserved w := by
    simp only [nextEvent_drive s hm hd, edgeEvent_ready s hr hv', hc, acceptEvent_error hw]
  rw [step, hev, runEvent]

/-- A marked run keeps its state for ever (R11). -/
theorem afterSteps_setRefusalMark (w : CmdWord) (s : State) (n : Nat) :
    (s.setRefusalMark w).afterSteps n = s.setRefusalMark w := by
  induction n with
  | zero => rfl
  | succ n ih =>
    have hmark : (s.setRefusalMark w).afterStep = s.setRefusalMark w := afterStep_refused _ (step_setRefusalMark w s)
    rw [State.afterSteps, hmark, ih]

theorem takeDigest_of_some {dg : Digest} (h : s.response = some dg) :
    s.takeDigest = { s with response := none, delivered := s.delivered ++ [dg] } := by
  simp [State.takeDigest, h]

theorem step_take (hm : s.refusalMark = none) (hd : s.drives = d :: rest) (hr : d.rst = false)
    (hready : d.digestReady = true) (hv : s.digestValid = true) : step s = .next s.popDrive.takeDigest := by
  have hev : s.nextEvent = .take := by rw [nextEvent_drive s hm hd, edgeEvent_waiting s hr hv, if_pos hready]
  rw [step, hev, runEvent]

end Edge

/-- Settles O6: the refused step sets the mark, and a marked run is refused again with its state kept. -/
theorem reservedWordIsRefused : Obligations.ReservedWordIsRefused := by
  intro s d rest w hm hd hr hc hv hw
  have hstep := step_reserved hm hd hr hc ((cmdReady_iff s).mp hv) hw
  have hafter (n : Nat) : s.afterSteps (n + 1) = s.setRefusalMark w := by
    rw [State.afterSteps, afterStep_refused s hstep, afterSteps_setRefusalMark]
  exact ⟨hstep, fun n => ⟨hafter n, by rw [hafter n, step_setRefusalMark]⟩⟩

/-- Settles O9: the edge uses its drive and moves the digest from the response channel to the host. -/
theorem offeredDigestIsTaken : Obligations.OfferedDigestIsTaken := by
  intro s d rest dg hm hd hr hready hdg
  have hv : s.digestValid = true := by simp [State.digestValid, hdg]
  rw [step_take hm hd hr hready hv, takeDigest_of_some (s := s.popDrive) hdg, popDrive_eq hd]

/-! ### A run of UPDATE words (R80, R141) -/

/-- Using the environment's next drive has no part in the fold of UPDATE. -/
theorem updates_popDrive (bs : List Byte) (s : State) : s.popDrive.updates bs = (s.updates bs).popDrive := by
  induction bs generalizing s with
  | nil => rfl
  | cons b bs ih => rw [updates_cons, updates_cons, update_popDrive, ih]

/-- The step that accepts a presented UPDATE is its rule, with the drive used. -/
theorem step_present_update {s : State} {b : Byte} {rest : List HostDrive} (hm : s.refusalMark = none)
    (hv : s.response = none) (hd : s.drives = presentDrive (encode (.update b)) :: rest) :
    step s = .next (s.popDrive.update b) := by
  rw [step_accept hm hd rfl rfl hv (decode_encode _) (exec_update _ b), takeDigest_of_none _ (by simpa using hv),
    ite_self]

/-- A run over the UPDATE words of a byte sequence is the fold of UPDATE over it, one step a byte (R80, R141). -/
theorem run_updateCommands (bs : List Byte) (rest : List HostDrive) (s : State) (hm : s.refusalMark = none)
    (hv : s.response = none) (hd : s.drives = commandDrives (updateCommands bs) ++ rest) :
    Host.Core.run core bs.length s = .next { s.updates bs with drives := rest } := by
  induction bs generalizing s with
  | nil =>
    obtain rfl : s.drives = rest := hd
    exact run_zero s
  | cons b bs ih =>
    have hcons : s.drives = presentDrive (encode (.update b)) :: (commandDrives (updateCommands bs) ++ rest) := hd
    rw [List.length_cons, run_succ_of_next s _ (step_present_update hm hv hcons),
      ih _ (by simpa using hm) (by simpa using hv) (by simp [hcons]), update_popDrive, updates_popDrive, updates_cons]
    rfl

/-- Settles O30: the UPDATE words of the chunks in turn are those of their concatenation. -/
theorem chunkingInvariance : Obligations.ChunkingInvariance := by
  refine ⟨fun chunks rest s hm hv hd => ?_, fun b1 b2 rest s hm hv hd => ?_⟩
  · have hwords : chunks.flatMap updateCommands = updateCommands chunks.flatten := List.map_flatten.symm
    exact run_updateCommands _ rest s hm hv (hwords ▸ hd)
  · have hwords : updateCommands b1 ++ updateCommands b2 = updateCommands (b1 ++ b2) := List.map_append.symm
    rw [← List.length_append]
    exact run_updateCommands _ rest s hm hv (hwords ▸ hd)

end Sys2Proof.Proofs

/-! PROOFS. Scope: the compressor (R100 to R121): the word operations bit by bit, the schedule and the rounds of one
compression, and the 16-word window. -/

namespace Sys2Proof.Proofs

open Sys2Proof.Machine Sys2Proof.Laws

/-! ### Rotation and shift (R101, R102) -/

section Words

variable {n k : Nat}

/-- The left part of a rotation fills the bits the right part leaves 0, so bit k comes from one place (R101). -/
theorem getLsbD_rotr (x : Word) (h1 : 1 ≤ n) (h31 : n ≤ 31) (hk : k < 32) :
    (rotr x n).getLsbD k = x.getLsbD ((k + n) % 32) := by
  simp only [rotr, BitVec.getLsbD_or, BitVec.getLsbD_ushiftRight, BitVec.getLsbD_shiftLeft]
  rcases Nat.lt_or_ge (k + n) 32 with h | h
  · have hright : k < 32 - n := by omega
    simp [hright, Nat.mod_eq_of_lt h, Nat.add_comm n k]
  · have hleft : ¬ k < 32 - n := by omega
    have hmod : (k + n) % 32 = k - (32 - n) := by omega
    rw [BitVec.getLsbD_of_ge x (n + k) (by omega)]
    simp [hk, hleft, hmod]

/-- Bit k of a shift is bit k + n, or a 0 shifted in (R102). -/
theorem getLsbD_shr (x : Word) (n k : Nat) :
    (shr x n).getLsbD k = if k + n < 32 then x.getLsbD (k + n) else false := by
  rw [shr, BitVec.getLsbD_ushiftRight, Nat.add_comm n k]
  split
  · rfl
  · exact BitVec.getLsbD_of_ge x _ (by omega)

/-- A rotation moves bits only, so it is linear over xor. -/
theorem rotr_xor (x y : Word) (h1 : 1 ≤ n) (h31 : n ≤ 31) : rotr (x ^^^ y) n = rotr x n ^^^ rotr y n :=
  BitVec.eq_of_getLsbD_eq fun k hk => by simp only [BitVec.getLsbD_xor, getLsbD_rotr _ h1 h31 hk]

theorem shr_xor (x y : Word) (n : Nat) : shr (x ^^^ y) n = shr x n ^^^ shr y n := BitVec.ushiftRight_xor_distrib x y n

end Words

/-- Settles O22, by where bit k of a rotation comes from. -/
theorem rotateAndShiftBits : Obligations.RotateAndShiftBits :=
  ⟨fun x _ _ h1 h31 hk => getLsbD_rotr x h1 h31 hk,
    fun x n => by rw [shr, BitVec.toNat_ushiftRight, Nat.shiftRight_eq_div_pow]⟩

/-! ### The sigma functions, Ch and Maj (R104 to R109) -/

/-- An xor of three linear terms is linear. -/
theorem xor_xor_xor_distrib (a a' b b' c c' : Word) :
    (a ^^^ a') ^^^ (b ^^^ b') ^^^ (c ^^^ c') = (a ^^^ b ^^^ c) ^^^ (a' ^^^ b' ^^^ c') := by ac_rfl

/-- Settles O23: each function is an xor of rotations and a shift, which are known bit by bit and linear. -/
theorem sigmaFunctionsLinear : Obligations.SigmaFunctionsLinear := by
  refine ⟨fun x k hk => ⟨?_, ?_, ?_, ?_⟩, fun x y => ⟨?_, ?_, ?_, ?_⟩, by decide⟩
  · simp only [sig0, BitVec.getLsbD_xor, getLsbD_rotr, getLsbD_shr, hk, Nat.reduceLeDiff]
  · simp only [sig1, BitVec.getLsbD_xor, getLsbD_rotr, getLsbD_shr, hk, Nat.reduceLeDiff]
  · simp only [bsig0, BitVec.getLsbD_xor, getLsbD_rotr, hk, Nat.reduceLeDiff]
  · simp only [bsig1, BitVec.getLsbD_xor, getLsbD_rotr, hk, Nat.reduceLeDiff]
  · simp [sig0, rotr_xor, shr_xor, xor_xor_xor_distrib]
  · simp [sig1, rotr_xor, shr_xor, xor_xor_xor_distrib]
  · simp [bsig0, rotr_xor, xor_xor_xor_distrib]
  · simp [bsig1, rotr_xor, xor_xor_xor_distrib]

theorem getLsbD_ch (x y z : Word) {k : Nat} (hk : k < 32) :
    (ch x y z).getLsbD k = ((x.getLsbD k && y.getLsbD k) ^^ (!x.getLsbD k && z.getLsbD k)) := by
  simp [ch, hk]

theorem getLsbD_maj (x y z : Word) (k : Nat) : (maj x y z).getLsbD k =
    ((x.getLsbD k && y.getLsbD k) ^^ (x.getLsbD k && z.getLsbD k) ^^ (y.getLsbD k && z.getLsbD k)) := by
  simp only [maj, BitVec.getLsbD_xor, BitVec.getLsbD_and]

/-- The xor of the three pairwise ands is 1 where at least two of the bits are 1 (R109). -/
theorem xor_and_pairs_eq_majority : ∀ a b c : Bool,
    ((a && b) ^^ (a && c) ^^ (b && c)) = decide (2 ≤ a.toNat + b.toNat + c.toNat) := by decide

/-- Settles O24, by the bit of x for Ch and the eight triples of bits for Maj. -/
theorem chooseAndMajorityPerBit : Obligations.ChooseAndMajorityPerBit := by
  refine fun x y z k hk => ⟨?_, ?_⟩
  · rw [getLsbD_ch x y z hk]
    cases x.getLsbD k <;> simp
  · rw [getLsbD_maj]
    exact xor_and_pairs_eq_majority _ _ _

/-! ### The schedule of a compression (R111, R112) -/

/-- Settles O25: a compression leaves the block's schedule in W. -/
theorem scheduleWords : Obligations.ScheduleWords := by
  intro c hin blk
  have hw := isSchedule_run c hin blk
  refine ⟨hw.load, fun t ht ht' => ?_⟩
  obtain ⟨k, rfl⟩ : ∃ k, t = k + 16 := ⟨t - 16, by omega⟩
  exact hw.expand k (by omega)

/-! ### The rounds (R113 to R118) -/

section Rounds

variable {i : Nat}

/-- The working variables before round i of `c.rounds`; from 64 on, those the last round leaves. -/
def varsBefore (c : Compressor) (i : Nat) : WorkVars := (roundsUpTo c (min i 64) (Nat.min_le_right i 64)).vars

theorem varsBefore_of_le (c : Compressor) (hi : i ≤ 64) : varsBefore c i = (roundsUpTo c i hi).vars := by
  simp only [varsBefore, Nat.min_eq_left hi]

/-- Round i makes the simultaneous assignment with K[i] and the W[i] the rounds found (R116, R117). -/
theorem varsBefore_succ (c : Compressor) (hi : i < 64) :
    varsBefore c (i + 1) = roundVars roundK[i] c.w[i] (varsBefore c i) := by
  have hw := (roundsUpTo_frame c i hi.le).1
  rw [varsBefore_of_le c hi, varsBefore_of_le c hi.le, roundsUpTo_succ]
  simp only [Compressor.roundStep, Compressor.roundWith, readK, Fin.getElem_fin, hw]

/-- The result of the rounds adds the last working variables to the Hin the rounds found (R118). -/
theorem feedFwd_rounds (c : Compressor) :
    c.rounds.feedFwd = { c with vars := varsBefore c 64 }.feedFwd :=
  feedFwd_congr rfl (roundsUpTo_frame c 64 le_rfl).2

end Rounds

/-- Settles O26: the sequence is that of the working variables before each round. -/
theorem roundsAndFeedForward : Obligations.RoundsAndFeedForward := by
  intro c hin blk
  refine ⟨varsBefore (((c.schedLoad blk).schedExpand).wvInit hin), rfl, fun i hi => ?_, run_round c hin blk,
    feedFwd_rounds _⟩
  simp only [run_w]
  exact varsBefore_succ _ hi

/-! ### The 16-word window (R121) -/

section Window

variable {blk : Block} {w : Vector Word 64} {win : Vector Word 16} {t : Nat}

/-- Before round t the window holds the words W[t-16] to W[t-1], and before round 16 those loaded ahead, each at its
index mod 16. -/
def WindowHolds (w : Vector Word 64) (win : Vector Word 16) (t : Nat) : Prop :=
  ∀ (j : Nat) (hj : j < 64), t ≤ j + 16 → j < t ∨ j < 16 → win[windowIndex j] = w[j]

/-- A window that holds the words before round t gives that round W[t]. -/
theorem windowWord_of_holds (hw : IsSchedule blk w) (hwin : WindowHolds w win t) (ht : t < 64) :
    windowWord win t = w[t] := by
  unfold windowWord
  split
  · next h => exact hwin t ht (by omega) (.inr h)
  · obtain ⟨k, rfl⟩ : ∃ k, t = k + 16 := ⟨t - 16, by omega⟩
    rw [hwin (k + 16 - 2) (by omega) (by omega) (by omega), hwin (k + 16 - 7) (by omega) (by omega) (by omega),
      hwin (k + 16 - 15) (by omega) (by omega) (by omega), hwin (k + 16 - 16) (by omega) (by omega) (by omega)]
    exact (hw.expand k (by omega)).symm

theorem windowHolds_load (hw : IsSchedule blk w) : WindowHolds w (windowLoad blk) 0 := by
  intro j hj _ hlt
  have hj16 : j < 16 := by omega
  rw [hw.load j hj16]
  simp [windowLoad, windowIndex, Nat.mod_eq_of_lt hj16]

/-- Round t writes W[t] over W[t-16] and leaves the words the next round may need where they stand. -/
theorem windowHolds_step (hw : IsSchedule blk w) (hwin : WindowHolds w win t) (ht : t < 64) :
    WindowHolds w (windowStep win t) (t + 1) := by
  intro j hj hold hnew
  simp only [windowStep, windowIndex, Fin.getElem_fin]
  rcases eq_or_ne j t with rfl | hne
  · rw [Vector.getElem_set_self, windowWord_of_holds hw hwin ht]
  · rw [Vector.getElem_set_ne _ _ (by omega)]
    exact hwin j hj (by omega) (by omega)

theorem windowHolds_after (hw : IsSchedule blk w) (ht : t ≤ 64) : WindowHolds w (windowAfter blk t) t := by
  induction t with
  | zero => exact windowHolds_load hw
  | succ t ih => exact windowHolds_step hw (ih (by omega)) (by omega)

end Window

/-- Settles O27: before each round the window holds the schedule's words that the round reads. -/
theorem scheduleWindowEquivalent : Obligations.ScheduleWindowEquivalent := by
  intro c hin blk t ht
  have hw := isSchedule_run c hin blk
  exact windowWord_of_holds hw (windowHolds_after hw ht.le) ht

end Sys2Proof.Proofs

/-! PROOFS. Scope: the two commands and their streams: what UPDATE and FINALIZE write and leave (R140, R147), the length
field (R144), the padded message (R151), and that a stream of commands delivers the digest of its message (R148). -/

namespace Sys2Proof.Proofs

open Sys2Proof.Machine Sys2Proof.Laws

/-! ### UPDATE and FINALIZE: what they write and what they leave (R140, R147) -/

/-- The whole state that a completed block leaves: H, BITCNT, BUFLEN and the compressor's registers are written (R140). -/
theorem completeBlock_eq (s : State) : s.completeBlock =
    { s with
      h := compress s.h s.buf, bitcnt := s.bitcnt + 512, buflen := 0, comp := s.comp.run s.h s.buf } := by
  rw [State.completeBlock, hout_runCompressor]
  simp only [State.runCompressor, State.bufBlock, State.writeComp, State.writeH, State.writeBitcnt, State.writeBuflen]

/-- Settles O14: below 63 pending bytes the store and the count, at 63 the store and the completed block. -/
theorem updateEffect : Obligations.UpdateEffect := by
  refine fun b s => ⟨fun hne => ?_, fun hfull => ?_⟩
  · rw [exec_update, update_of_ne s b hne]
    rfl
  · refine ⟨s.comp.run s.h (s.buf.set 63 b), ?_⟩
    rw [exec_update, update_of_eq s b hfull, completeBlock_eq]
    simp only [State.writeBuf, hfull]
    rfl

/-- Settles O15: BUF is written at BUFLEN alone, and H, BITCNT and the compressor only with a completed block. -/
theorem updateFrame : Obligations.UpdateFrame := by
  intro b s t hexec
  obtain rfl : s.update b = t := Host.Outcome.next.inj hexec
  refine ⟨fun j hj => ?_, fun hne => ?_, update_response s b, update_refusalMark s b, update_drives s b,
    update_delivered s b, update_freeCount s b⟩
  · rw [readBuf_update, if_neg hj.symm]
  · rw [update_of_ne s b hne]
    exact ⟨rfl, rfl, rfl⟩

/-- Settles O19: FINALIZE has no part in the mark, the drives and the digests taken. -/
theorem finalizeFrame : Obligations.FinalizeFrame := by
  intro s t hexec
  obtain rfl : s.finalize = t := Host.Outcome.next.inj hexec
  exact ⟨finalize_refusalMark s, finalize_drives s, finalize_delivered s⟩

/-! ### The length field (R144) -/

/-- BITCNT is a multiple of 512, so the at most 504 pending bits fit below the next one (R144). -/
theorem messageBits_toNat {s : State} (h : s.bitcnt.toNat % 512 = 0) :
    s.messageBits.toNat = s.bitcnt.toNat + 8 * s.buflen.toNat := by
  have hcnt := s.bitcnt.isLt
  have hlen := s.buflen.isLt
  rw [State.messageBits, BitVec.toNat_add, BitVec.toNat_ofNat]
  omega

/-- The length field of a represented message is its length in bits, modulo 2^64 (R144). -/
theorem messageBits_of_represents {s : State} {m : List Byte} (hrep : s.Represents m) :
    s.messageBits = BitVec.ofNat 64 (8 * m.length) := by
  have hsum : 512 * (m.length / 64) + 8 * (m.length % 64) = 8 * m.length := by omega
  rw [State.messageBits, hrep.bitcnt, hrep.buflen, ← BitVec.ofNat_add, hsum]

/-- Settles O20: no carry from a multiple of 512, and the compressed and the pending bits together are the message's. -/
theorem lengthFieldNeverCarries : Obligations.LengthFieldNeverCarries := by
  refine ⟨fun s hinv => ⟨messageBits_toNat hinv.bitcnt, ?_⟩, fun s m => messageBits_of_represents⟩
  have hlen := s.buflen.isLt
  omega

/-! ### A byte sequence and its blocks (R51) -/

section Blocks

variable {l : List Byte}

/-- The first n blocks of a byte sequence are its first 64n bytes. -/
theorem flatMap_blockAt_range {n : Nat} (h : 64 * n ≤ l.length) :
    ((List.range n).map (blockAt l)).flatMap Vector.toList = l.take (64 * n) := by
  induction n with
  | zero => rfl
  | succ n ih =>
    rw [List.range_succ, List.map_append, List.flatMap_append, ih (by omega), Nat.mul_succ, List.take_add]
    simp [toList_blockAt (j := n) h]

/-- The full blocks are the bytes up to the last multiple of 64 (R56). -/
theorem flatMap_fullBlocks (l : List Byte) :
    (fullBlocks l).flatMap Vector.toList = l.take (64 * (l.length / 64)) :=
  flatMap_blockAt_range (by omega)

theorem flatMap_fullBlocks_of_mod (h : l.length % 64 = 0) : (fullBlocks l).flatMap Vector.toList = l := by
  rw [flatMap_fullBlocks, List.take_of_length_le (by omega)]

/-- The bytes of a list of blocks determine the blocks, since each has 64. -/
theorem blocks_eq_of_flatMap_eq {blks blks' : List Block}
    (h : blks.flatMap Vector.toList = blks'.flatMap Vector.toList) : blks = blks' := by
  induction blks generalizing blks' with
  | nil =>
    cases blks' with
    | nil => rfl
    | cons blk' rest' =>
      have hlen : 0 = 64 + rest'.length * 64 := by simpa using congrArg List.length h
      omega
  | cons blk rest ih =>
    cases blks' with
    | nil => simp at h
    | cons blk' rest' =>
      rw [List.flatMap_cons, List.flatMap_cons] at h
      obtain ⟨hblk, hrest⟩ := List.append_inj h (by simp)
      rw [block_ext hblk, ih hrest]

/-- A byte sequence cut into blocks in any way has those as its full blocks. -/
theorem fullBlocks_flatMap (blks : List Block) : fullBlocks (blks.flatMap Vector.toList) = blks := by
  have hlen : (blks.flatMap Vector.toList).length % 64 = 0 := by simp
  exact blocks_eq_of_flatMap_eq (flatMap_fullBlocks_of_mod hlen)

end Blocks

/-! ### The padded message (R151) -/

section Padded

variable (m : List Byte)

/-- The part of the padded message before its length field: the message, the byte 0x80 and the zero fill. -/
def padPrefix (m : List Byte) : List Byte := m ++ [0x80] ++ zeros (padZeros m.length)

theorem padMessage_eq : padMessage m = padPrefix m ++ beBytes 8 (BitVec.ofNat 64 (8 * m.length)) := rfl

theorem length_padPrefix : (padPrefix m).length = m.length + 1 + padZeros m.length := by
  simp only [padPrefix, List.length_append, List.length_singleton, length_zeros]

/-- The zero fill brings the length to 56 modulo 64. -/
theorem padZeros_mod (n : Nat) : (n + 1 + padZeros n) % 64 = 56 := by
  rw [padZeros]; omega

/-- No shorter zero fill brings the length to 56 modulo 64. -/
theorem padZeros_le {n k : Nat} (h : (n + 1 + k) % 64 = 56) : padZeros n ≤ k := by
  rw [padZeros]; omega

theorem length_padMessage_mod : (padMessage m).length % 64 = 0 := by
  have hmod := padZeros_mod m.length
  rw [padMessage_eq, List.length_append, length_padPrefix, length_beBytes]
  omega

end Padded

/-- Settles O31: the length field starts at 56 modulo 64 and ends the last block. -/
theorem paddedMessageShape : Obligations.PaddedMessageShape := by
  refine fun m => ⟨length_padMessage_mod m, padZeros_mod m.length, fun k => padZeros_le, ?_, fun k hk => ?_,
    flatMap_fullBlocks_of_mod (length_padMessage_mod m)⟩
  · rw [padMessage_eq, List.take_left' (length_padPrefix m)]
    rfl
  · rw [padMessage_eq, ← length_padPrefix, List.getElem?_append_right (by omega), Nat.add_sub_cancel_left,
      beBytes_getElem? 8 _ k hk]

/-! ### FINALIZE compresses the padded message (R147, R148) -/

section Digest

variable {s : State} {m : List Byte}

/-- A represented message is the bytes of its full blocks and then the pending ones (R27). -/
theorem message_eq_of_represents (hrep : s.Represents m) :
    m = (fullBlocks m).flatMap Vector.toList ++ s.pending := by
  rw [flatMap_fullBlocks, hrep.pending, List.take_append_drop]

/-- With at most 55 pending bytes the padding completes one block (R145). -/
theorem fullBlocks_padMessage_of_le (hrep : s.Represents m) (h : s.buflen.toNat ≤ 55) :
    fullBlocks (padMessage m) = fullBlocks m ++ [s.padOne h] := by
  have hzeros : padZeros m.length = 55 - s.buflen.toNat := by rw [padZeros, ← hrep.buflen]; omega
  have hbytes : padMessage m = (fullBlocks m ++ [s.padOne h]).flatMap Vector.toList := by
    rw [padMessage, hzeros, ← messageBits_of_represents hrep]
    conv_lhs => rw [message_eq_of_represents hrep]
    simp [toList_padOne, zeros]
  rw [hbytes, fullBlocks_flatMap]

/-- With 56 to 63 pending bytes the zero fill completes a block, and 56 zeros and the length field are one more (R146). -/
theorem fullBlocks_padMessage_of_ge (hrep : s.Represents m) (h : 56 ≤ s.buflen.toNat) :
    fullBlocks (padMessage m) = fullBlocks m ++ [s.padFirst, s.padSecond] := by
  have hlen := s.buflen.isLt
  have hzeros : padZeros m.length = 63 - s.buflen.toNat + 56 := by rw [padZeros, ← hrep.buflen]; omega
  have hbytes : padMessage m = (fullBlocks m ++ [s.padFirst, s.padSecond]).flatMap Vector.toList := by
    rw [padMessage, hzeros, ← messageBits_of_represents hrep, zeros, List.replicate_add]
    conv_lhs => rw [message_eq_of_represents hrep]
    simp [toList_padFirst, toList_padSecond]
  rw [hbytes, fullBlocks_flatMap]

/-- R148: FINALIZE offers the digest of the message that the state represents. -/
theorem finalize_response_of_represents (hrep : s.Represents m) : s.finalize.response = some (sha256 m) := by
  by_cases h : s.buflen.toNat ≤ 55
  · rw [finalize_response_of_le s h, sha256, fullBlocks_padMessage_of_le hrep h, chain_snoc, hrep.h]
  · have hge : 56 ≤ s.buflen.toNat := by omega
    rw [finalize_response_of_ge s hge, sha256, fullBlocks_padMessage_of_ge hrep hge, List.append_cons, chain_snoc,
      chain_snoc, hrep.h]

/-- The fold of UPDATE appends its bytes to the represented message (R27, R141). -/
theorem represents_updates (bs : List Byte) (hrep : s.Represents m) : (s.updates bs).Represents (m ++ bs) := by
  induction bs generalizing s m with
  | nil => simpa using hrep
  | cons b bs ih => simpa using ih (represents_update b hrep)

/-- From S0 the fold of UPDATE over a message represents it. -/
theorem represents_updates_of_isS0 (m : List Byte) (hS0 : s.isS0) : (s.updates m).Represents m :=
  represents_updates m (represents_nil_of_isS0 hS0)

end Digest

/-- Settles O32: the stream represents the message, and FINALIZE offers the digest of what is represented. -/
theorem streamComputesSha256 : Obligations.StreamComputesSha256 := by
  intro s m hS0
  exact ⟨_, exec_finalize _, finalize_response_of_represents (represents_updates_of_isS0 m hS0), isS0_finalize _⟩

/-- Taking a digest writes no register (R72). -/
theorem isS0_takeDigest {s : State} (hS0 : s.isS0) : s.takeDigest.isS0 := by simpa [State.isS0] using hS0

/-- The digest of the empty message (R149). -/
theorem sha256_nil :
    sha256 [] = 0xe3b0c44298fc1c149afbf4c8996fb92427ae41e4649b934ca495991b7852b855 := by
  decide +kernel

/-- Settles O21: S0 represents the empty message, and FINALIZE leaves S0. -/
theorem finalizeFromS0DeliversEmptyDigest : Obligations.FinalizeFromS0DeliversEmptyDigest := by
  have hempty {s : State} (hS0 : s.isS0) : s.finalize.response = _ :=
    (finalize_response_of_represents (represents_nil_of_isS0 hS0)).trans (congrArg some sha256_nil)
  refine ⟨fun s hS0 => ⟨_, exec_finalize s, hempty hS0⟩, fun s => ?_⟩
  exact ⟨_, _, exec_finalize s, exec_finalize _, hempty (isS0_takeDigest (isS0_finalize s))⟩

/-! ### A run of messages (R60, R148) -/

section Run

variable {s : State} {m : List Byte}

/-- The state after the step that accepts FINALIZE: the digest is taken where the host is ready, and waits where it is
not (R72, R196). -/
theorem step_finalize {ready : Bool} (he : s.nextEvent = .accept .finalize ready) :
    step s = .next (if ready then s.popDrive.finalize.takeDigest else s.popDrive.finalize) := by
  rw [step_eq, he]
  rfl

/-- What the host drives has no part in the represented message. -/
theorem represents_withDrives (ds : List HostDrive) (hrep : s.Represents m) :
    ({ s with drives := ds } : State).Represents m :=
  represents_congr (s := s) ⟨rfl, rfl, rfl, rfl⟩ hrep

theorem finalize_popDrive_response (hrep : s.Represents m) : s.popDrive.finalize.response = some (sha256 m) :=
  finalize_response_of_represents (represents_withDrives _ hrep)

end Run

/-- Settles O45: the accepting step leaves S0, and its digest is that of the represented message. -/
theorem finalizeStepDeliversMessageDigest : Obligations.FinalizeStepDeliversMessageDigest := by
  intro s m ready hrep he
  have hS0 := isS0_finalize s.popDrive
  have hresp := finalize_popDrive_response hrep
  cases ready with
  | true =>
    refine ⟨s.popDrive.finalize.takeDigest, step_finalize he, isS0_takeDigest hS0, by simp,
      fun _ => ⟨takeDigest_response _, ?_⟩, nofun⟩
    rw [takeDigest_delivered, hresp, finalize_delivered]
    rfl
  | false =>
    exact ⟨s.popDrive.finalize, step_finalize he, hS0, finalize_drives _, nofun, fun _ => ⟨hresp, finalize_delivered _⟩⟩

section RunOfMessages

variable {s : State}

/-- The fold of UPDATE has no part in the response channel, the mark and the digests taken (R140, R141). -/
theorem updates_frame (bs : List Byte) (s : State) : (s.updates bs).response = s.response ∧
    (s.updates bs).refusalMark = s.refusalMark ∧ (s.updates bs).delivered = s.delivered := by
  induction bs generalizing s with
  | nil => exact ⟨rfl, rfl, rfl⟩
  | cons b bs ih => simpa using ih (s.update b)

/-- What the words of a message leave of a state, where the host is always ready: the digest delivered, and S0 with
nothing in flight, so that the words after them run alike. -/
structure DeliversMessage (m : List Byte) (rest : List HostDrive) (s t : State) : Prop where
  isS0 : t.isS0
  refusalMark : t.refusalMark = none
  response : t.response = none
  drives : t.drives = rest
  delivered : t.delivered = s.delivered ++ [sha256 m]

/-- The step that accepts a presented FINALIZE delivers the digest of the represented message. -/
theorem step_present_finalize {m : List Byte} {rest : List HostDrive} (hrep : s.Represents m)
    (hm : s.refusalMark = none) (hv : s.response = none)
    (hd : s.drives = presentDrive (encode .finalize) :: rest) :
    ∃ t, step s = .next t ∧ DeliversMessage m rest s t := by
  have he : s.nextEvent = .accept .finalize true := nextEvent_accept hm hd rfl rfl hv (decode_encode .finalize)
  obtain ⟨t, hstep, hS0, hdrives, htaken, -⟩ := finalizeStepDeliversMessageDigest s m true hrep he
  obtain ⟨hresp, hdelivered⟩ := htaken rfl
  refine ⟨t, hstep, hS0, ?_, hresp, by simp [hdrives, hd], hdelivered⟩
  obtain rfl := Host.Outcome.next.inj ((step_finalize he).symm.trans hstep)
  simpa using hm

/-- A run over the words of one message from S0: its UPDATE words bring the core to the fold, and its FINALIZE word
delivers the digest. -/
theorem run_messageCommands (m : List Byte) (rest : List HostDrive) (hS0 : s.isS0)
    (hm : s.refusalMark = none) (hv : s.response = none)
    (hd : s.drives = commandDrives (messageCommands m) ++ rest) :
    ∃ t : State, Host.Core.run core (messageCommands m).length s = .next t ∧ DeliversMessage m rest s t := by
  have hsplit : s.drives = commandDrives (updateCommands m) ++ presentDrive (encode .finalize) :: rest := by
    simpa [commandDrives, messageCommands] using hd
  have hupdates := run_updateCommands m _ s hm hv hsplit
  have hrep := represents_withDrives (presentDrive (encode .finalize) :: rest) (represents_updates_of_isS0 m hS0)
  obtain ⟨hresponse, hmark, hdelivered⟩ := updates_frame m s
  obtain ⟨t, hfinalize, ht⟩ := step_present_finalize hrep (hmark.trans hm) (hresponse.trans hv) rfl
  have hlen : (messageCommands m).length = m.length + 1 := by simp [messageCommands, updateCommands]
  refine ⟨t, ?_, { ht with delivered := ht.delivered.trans (congrArg (· ++ [sha256 m]) hdelivered) }⟩
  rw [hlen, run_add _ _ _ hupdates, run_succ_of_next _ _ hfinalize, run_zero]

end RunOfMessages

/-- Settles O33: the runs of the messages one after another, each from the S0 that the one before leaves. -/
theorem runDeliversEachDigest : Obligations.RunDeliversEachDigest := by
  intro ms rest s hS0 hm hv hd
  induction ms generalizing s with
  | nil => exact ⟨s, run_zero s, by simp, hd, hS0, hv⟩
  | cons m ms ih =>
    have hd' : s.drives =
        commandDrives (messageCommands m) ++ (commandDrives (ms.flatMap messageCommands) ++ rest) := by
      simpa [commandDrives] using hd
    obtain ⟨t, hrun, ht⟩ := run_messageCommands m _ hS0 hm hv hd'
    obtain ⟨u, hrun', hdel, hu⟩ := ih t ht.isS0 ht.refusalMark ht.response ht.drives
    refine ⟨u, ?_, by simp [hdel, ht.delivered], hu⟩
    rw [List.flatMap_cons, List.length_append, run_add _ _ _ hrun, hrun']

/-! ### The number of compressions (R150) -/

/-- UPDATE compresses once for each multiple of 64 that the count of pending bytes passes. -/
theorem updateCompressions_eq (bs : List Byte) (s : State) :
    s.updateCompressions bs = (s.buflen.toNat + bs.length) / 64 := by
  induction bs generalizing s with
  | nil =>
    have hlen := s.buflen.isLt
    rw [State.updateCompressions, List.length_nil]
    omega
  | cons b bs ih =>
    rw [State.updateCompressions, ih, compressions, update_buflen, List.length_cons]
    by_cases hfull : s.buflen = 63
    · have h63 : s.buflen.toNat = 63 := by rw [hfull]; rfl
      rw [if_pos hfull, if_pos hfull, h63, show (0 : BitVec 6).toNat = 0 from rfl]
      omega
    · rw [if_neg hfull, if_neg hfull, toNat_buflen_add_one hfull]
      omega

/-- Settles O34: from S0 the pending bytes after the message are |M| mod 64. -/
theorem compressionCount : Obligations.CompressionCount := by
  intro s m hS0
  have hupd : s.updateCompressions m = m.length / 64 := by
    obtain ⟨-, hbuflen, -⟩ := hS0
    simp [updateCompressions_eq, hbuflen]
  have hfin : compressions .finalize (s.updates m) = if m.length % 64 ≤ 55 then 1 else 2 := by
    rw [compressions, (represents_updates_of_isS0 m hS0).buflen]
  refine ⟨hupd, hfin, ?_⟩
  rw [hupd, hfin]
  split <;> omega

/-! ### The hexadecimal rendering (R152) -/

/-- A sequence of pairs has the pair of entry k at the places 2k and 2k + 1. -/
theorem getElem?_flatMap_pair {α β : Type} (f g : α → β) (l : List α) (k : Nat) :
    (l.flatMap fun a => [f a, g a])[2 * k]? = l[k]?.map f ∧
    (l.flatMap fun a => [f a, g a])[2 * k + 1]? = l[k]?.map g := by
  induction l generalizing k with
  | nil => simp
  | cons a l ih =>
    cases k with
    | zero => simp
    | succ k => simpa [Nat.mul_succ] using ih k

/-- The digits in the order of their values, one character each (R152). -/
theorem some_hexDigit : ∀ n : BitVec 4, some (hexDigit n) =
    ['0', '1', '2', '3', '4', '5', '6', '7', '8', '9', 'a', 'b', 'c', 'd', 'e', 'f'][n.toNat]? := by
  decide

theorem toNat_highNibble (b : Byte) : (b.extractLsb' 4 4).toNat = b.toNat / 16 := by
  have hb := b.isLt
  rw [BitVec.extractLsb'_toNat, Nat.shiftRight_eq_div_pow]
  omega

theorem toNat_lowNibble (b : Byte) : (b.extractLsb' 0 4).toNat = b.toNat % 16 := by
  rw [BitVec.extractLsb'_toNat, Nat.shiftRight_zero]

/-- Settles O29: byte k of the 32 gives the pair of its two digits. -/
theorem hexRendering : Obligations.HexRendering := by
  refine fun d => ⟨by simp [hex], fun k => ?_⟩
  have hk : (List.finRange 32)[k.val]? = some k := by simp
  obtain ⟨hhigh, hlow⟩ := getElem?_flatMap_pair
    (fun k => hexDigit ((digestByte d k).extractLsb' 4 4)) (fun k => hexDigit ((digestByte d k).extractLsb' 0 4))
    (List.finRange 32) k.val
  rw [hk, Option.map_some, some_hexDigit, toNat_highNibble] at hhigh
  rw [hk, Option.map_some, some_hexDigit, toNat_lowNibble] at hlow
  exact ⟨hhigh, hlow⟩

end Sys2Proof.Proofs

/-! PROOFS. Scope: what is no exception (R170, R173, R183): idle steps, reset (R175, R190), sequences of commands, the wrap of
BITCNT, and the step of one of several cores (R179). -/

namespace Sys2Proof.Proofs

open Sys2Proof.Machine Sys2Proof.Laws

/-! ### A run over idle steps (R183) -/

section Idle

variable {s : State}

/-- A core without a digest waiting keeps its state at a step with no reset and no command, whether the environment drives
such an edge or nothing more (R183). -/
theorem step_idle (hm : s.refusalMark = none) (hv : s.response = none)
    (hidle : ∀ d ∈ s.drives.head?, d.rst = false ∧ d.cmd = none) : step s = .next s.popDrive := by
  cases hd : s.drives with
  | nil =>
    have hpop : s.popDrive = s := by rw [State.popDrive, hd, List.tail_nil, ← hd]
    rw [step, nextEvent_quiet s hm hd, runEvent, hpop]
  | cons d rest =>
    obtain ⟨hr, hc⟩ := hidle d (by rw [hd]; rfl)
    have hv' : s.digestValid = false := by rw [State.digestValid, hv]; rfl
    have hev : s.nextEvent = .idle := by rw [nextEvent_drive s hm hd, edgeEvent_ready s hr hv', hc]
    rw [step, hev, runEvent]

/-- Where every step at a drive with the property `P`, and at no drive, uses the drive and changes nothing else, so does a
run over such drives. -/
theorem run_eq_drop_drives {P : HostDrive → Prop}
    (hstep : ∀ ds : List HostDrive, (∀ d ∈ ds.head?, P d) →
      step { s with drives := ds } = .next { s with drives := ds.tail })
    (n : Nat) (ds : List HostDrive) (hds : ∀ d ∈ ds.take n, P d) :
    Host.Core.run core n { s with drives := ds } = .next { s with drives := ds.drop n } := by
  induction n generalizing ds with
  | zero => exact run_zero _
  | succ n ih =>
    cases ds with
    | nil =>
      rw [run_succ_of_next _ _ (hstep [] nofun)]
      simpa using ih [] (by simp)
    | cons d ds =>
      obtain ⟨hd, hrest⟩ := List.forall_mem_cons.mp hds
      rw [run_succ_of_next _ _ (hstep (d :: ds) (by simpa using hd))]
      exact ih ds hrest

end Idle

/-- Settles O12: each step is idle, so the run uses the drives alone, and CMD_READY falls only with a digest waiting. -/
theorem idleKeepsState : Obligations.IdleKeepsState := by
  refine fun s n hm hv hidle => ⟨?_, (cmdReady_iff _).mpr hv⟩
  exact run_eq_drop_drives (fun ds hds => step_idle (s := { s with drives := ds }) hm hv hds) n s.drives hidle

/-! ### Any sequence of commands (R170) -/

/-- No command has a part in the refusal mark or in what the host drives (R140, R147). -/
theorem exec_frame {i : Instr} {s t : State} (h : exec i s = .next t) :
    t.refusalMark = s.refusalMark ∧ t.drives = s.drives := by
  cases i with
  | update b =>
    obtain ⟨-, -, -, hmark, hdrives, -⟩ := updateFrame b s t h
    exact ⟨hmark, hdrives⟩
  | finalize =>
    obtain ⟨hmark, hdrives, -⟩ := finalizeFrame s t h
    exact ⟨hmark, hdrives⟩

/-- The step that accepts a presented command leaves the core ready for the one after it: a ready host has taken the digest
where there was one. -/
theorem step_present {s : State} {i : Instr} {rest : List HostDrive} (hm : s.refusalMark = none)
    (hv : s.response = none) (hd : s.drives = presentDrive (encode i) :: rest) :
    ∃ t, step s = .next t ∧ t.refusalMark = none ∧ t.response = none ∧ t.drives = rest := by
  obtain ⟨t, ht⟩ := exec_eq_next i s.popDrive
  obtain ⟨hmark, hdrives⟩ := exec_frame ht
  refine ⟨t.takeDigest, step_accept hm hd rfl rfl hv (decode_encode i) ht, ?_, takeDigest_response t, ?_⟩
  · rw [takeDigest_refusalMark, hmark, popDrive_refusalMark, hm]
  · rw [takeDigest_drives, hdrives, popDrive_drives, hd, List.tail_cons]

/-- Settles O13: `Fault` has no constructor, and the commands presented are accepted one after another. -/
theorem noExceptionForAnyCommandSequence : Obligations.NoExceptionForAnyCommandSequence := by
  refine ⟨fun _ f => (nomatch f), exec_eq_next, fun is rest s hm hv hd => ?_⟩
  induction is generalizing s with
  | nil => exact ⟨s, run_zero s⟩
  | cons i is ih =>
    obtain ⟨t, hstep, hm', hv', hd'⟩ := step_present hm hv hd
    obtain ⟨u, hrun⟩ := ih t hm' hv' hd'
    exact ⟨u, (run_succ_of_next s is.length hstep).trans hrun⟩

/-! ### Reset (R175, R190) and the wrap of BITCNT (R173) -/

/-- An edge with RST = 1 is a reset, whatever command is presented and whether a digest waits (R175). -/
theorem step_reset {s : State} {d : HostDrive} {rest : List HostDrive} (hm : s.refusalMark = none)
    (hd : s.drives = d :: rest) (hr : d.rst = true) : step s = .next s.popDrive.resetEvent := by
  rw [step, nextEvent_drive s hm hd, edgeEvent_reset s hr, runEvent]

/-- Settles O7: the step is the reset event, which leaves S0 and withdraws the digest. -/
theorem resetHasPriority : Obligations.ResetHasPriority := by
  intro s d rest hm hd hr
  have hresponse : s.popDrive.resetEvent.response = none := resetEvent_response _
  refine ⟨_, step_reset hm hd hr, isS0_resetEvent _, ?_, (cmdReady_iff _).mpr hresponse, resetEvent_delivered _, ?_, ?_⟩
  · rw [State.digestValid, hresponse]; rfl
  · rw [resetEvent_drives, popDrive_drives, hd, List.tail_cons]
  · rw [resetEvent_refusalMark, popDrive_refusalMark, hm]

/-- The last multiple of 512 below 2^64 and 512 make 0 (R173). -/
theorem add_512_eq_zero {c : Count64} (h : c.toNat = 2 ^ 64 - 512) : c + 512 = 0 := by
  bv_omega

/-- Settles O17: the completed block adds 512 to BITCNT, and UPDATE has no part in the signals. -/
theorem bitCounterWrapsSilently : Obligations.BitCounterWrapsSilently := by
  intro b s hfull hcount
  refine ⟨s.update b, exec_update s b, ?_, update_response s b, update_refusalMark s b, update_delivered s b⟩
  rw [update_bitcnt, if_pos hfull, add_512_eq_zero hcount]

/-! ### A step of one of several cores (R179) -/

/-- Settles O40: the step replaces its own core's entry in the list and no other. -/
theorem instancesAreIndependent : Obligations.InstancesAreIndependent := by
  intro cores j hj t hstep
  have hcore : cores[j]? = some cores[j] := List.getElem?_eq_getElem hj
  exact ⟨cores.set j t, stepInstance_of_next hcore hstep, List.getElem?_set_self hj,
    fun k hne => List.getElem?_set_ne hne.symm⟩

end Sys2Proof.Proofs

/-! PROOFS. Scope: reset beside FINALIZE (R190, R191), a digest that waits (R194, R196), and the cycle level against the
atomic rules (R200). -/

namespace Sys2Proof.Proofs

open Sys2Proof.Machine Sys2Proof.Laws

/-! ### Reset beside FINALIZE (R191), and reset in flight (R190, R198) -/

/-- Settles O8: both enter S0; FINALIZE puts its digest on the response channel, reset withdraws what stands there. -/
theorem resetAndFinalizeLeaveS0 : Obligations.ResetAndFinalizeLeaveS0 := by
  intro s
  refine ⟨s.finalize, exec_finalize s, isS0_finalize s, isS0_resetEvent s, ?_, ?_, resetEvent_delivered s⟩
  · rw [State.digestValid, finalize_response]; rfl
  · rw [State.digestValid, resetEvent_response]; rfl

/-- Settles O43: the edge is the reset event, whatever the phase. -/
theorem resetAbortsCommandInFlight : Obligations.ResetAbortsCommandInFlight := by
  intro c d hm hr
  refine ⟨_, clock_reset c d hm hr, rfl, rfl, isS0_resetEvent c.core, ?_, resetEvent_delivered c.core⟩
  rw [CycleState.digestValid, State.digestValid, resetEvent_response]; rfl

/-! ### A digest that waits (R194, R196) -/

section Waiting

variable {s : State}

theorem digestValid_eq_not_cmdReady (s : State) : s.digestValid = !s.cmdReady := by simp [State.cmdReady]

/-- Where the environment drives nothing more, using its next drive changes nothing. -/
theorem step_of_no_drive (hm : s.refusalMark = none) (hd : s.drives = []) : step s = .next s.popDrive := by
  have hpop : s.popDrive = s := by rw [State.popDrive, hd, List.tail_nil, ← hd]
  rw [step, nextEvent_quiet s hm hd, runEvent, hpop]

/-- A core whose digest waits keeps its state at a step where the host neither takes it nor resets, whether the
environment drives such an edge or nothing more (R196). -/
theorem step_hold (hm : s.refusalMark = none) (hv : s.digestValid = true)
    (hhold : ∀ d ∈ s.drives.head?, d.rst = false ∧ d.digestReady = false) : step s = .next s.popDrive := by
  cases hd : s.drives with
  | nil => exact step_of_no_drive hm hd
  | cons d rest =>
    obtain ⟨hr, hready⟩ := hhold d (by rw [hd]; rfl)
    have hev : s.nextEvent = .hold := by
      rw [nextEvent_drive s hm hd, edgeEvent_waiting s hr hv, hready]; rfl
    rw [step, hev, runEvent]

/-- While the host neither takes the digest nor resets, a run uses the drives and changes nothing else (R196). -/
theorem run_hold (n : Nat) (hm : s.refusalMark = none) (hv : s.digestValid = true)
    (hhold : ∀ d ∈ s.drives.take n, d.rst = false ∧ d.digestReady = false) :
    Host.Core.run core n s = .next { s with drives := s.drives.drop n } :=
  run_eq_drop_drives (fun ds hds => step_hold (s := { s with drives := ds }) hm hv hds) n s.drives hhold

theorem holds_of_not_takesDigest (h : ¬ TakesDigest s) : ∀ d ∈ s.drives, d.rst = false ∧ d.digestReady = false := by
  simp only [TakesDigest, not_forall, not_exists, not_and, not_or, Bool.not_eq_true] at h
  obtain ⟨-, hnever⟩ := h
  exact fun d hd => (hnever d hd).symm

end Waiting

/-- Settles O10: the wait is a run of steps that use their drives alone; its end is the edge that takes or resets. -/
theorem untakenDigestHangs : Obligations.UntakenDigestHangs := by
  refine ⟨fun s n hm hv hhold => ⟨run_hold n hm hv hhold, ?_⟩, fun s n hm hv hnever => ?_,
    fun s ws d rest dg hm hdg hd hws hr hready => ?_, fun s d rest hm hv hd hr => ?_⟩
  · change (!s.digestValid) = false
    rw [hv, Bool.not_true]
  · exact run_hold n hm hv fun d hd => holds_of_not_takesDigest hnever d (List.mem_of_mem_take hd)
  · have hv : s.digestValid = true := by simp [State.digestValid, hdg]
    have hwait : Host.Core.run core ws.length s = .next { s with drives := d :: rest } := by
      have hrun := run_hold ws.length hm hv (by rwa [hd, List.take_left])
      rwa [hd, List.drop_left] at hrun
    have htake := offeredDigestIsTaken { s with drives := d :: rest } d rest dg hm rfl hr hready hdg
    rw [run_add s ws.length 1 hwait, run_succ_of_next _ 0 htake, run_zero]
  · obtain ⟨t, hstep, -, hvalid, hcmd, -⟩ := resetHasPriority s d rest hm hd hr
    exact ⟨t, hstep, hvalid, hcmd⟩

/-- Settles O11: the edge either takes the digest or holds, and neither looks at CMD; the drive after it is read next. -/
theorem heldCommandWaits : Obligations.HeldCommandWaits := by
  intro s d e rest w hm hbusy hd hr hc hhold
  have hv : s.digestValid = true := by rw [digestValid_eq_not_cmdReady, hbusy]; rfl
  have hcmd : e.cmd = some w := (hhold d e rest hd hbusy hr (by rw [hc]; rfl)).trans hc
  have hpop : s.popDrive.drives = e :: rest := by rw [popDrive_drives, hd, List.tail_cons]
  cases hready : d.digestReady with
  | false =>
    have hstep : step s = .next s.popDrive := step_hold hm hv (by simp [hd, hr, hready])
    exact ⟨_, hstep, hpop, hcmd, rfl, rfl, rfl, rfl, rfl, nofun, fun _ => rfl⟩
  | true =>
    have hdrives : s.popDrive.takeDigest.drives = e :: rest := by rw [takeDigest_drives, hpop]
    have hnext (hre : e.rst = false) : s.popDrive.takeDigest.nextEvent = acceptEvent w e.digestReady := by
      have hvalid : s.popDrive.takeDigest.digestValid = false := by rw [State.digestValid, takeDigest_response]; rfl
      rw [nextEvent_drive _ ((takeDigest_refusalMark s.popDrive).trans hm) hdrives, edgeEvent_ready _ hre hvalid,
        hcmd]
    exact ⟨_, step_take hm hd hr hready hv, hdrives, hcmd, takeDigest_h _, takeDigest_buf _, takeDigest_buflen _,
      takeDigest_bitcnt _, takeDigest_comp _, fun _ => hnext, nofun⟩

/-! ### Runs of edges of a busy core (R71, R200) -/

/-- `n` edges without a reset lead from one state to another, whatever else the host drives; before each of them
CMD_READY is 0 and the response channel holds `r`. -/
inductive BusyRun (r : Option Digest) : Nat → CycleState → CycleState → Prop where
  | refl (c : CycleState) : BusyRun r 0 c c
  | step {n : Nat} {c t u : CycleState} (hbusy : c.cmdReady = false) (hresp : c.core.response = r)
      (hclock : ∀ d : HostDrive, d.rst = false → c.clock d = .next t) (hrest : BusyRun r n t u) :
      BusyRun r (n + 1) c u

section BusyRun

variable {r : Option Digest} {n k : Nat} {c t u : CycleState}

theorem cmdReady_eq_false (h : c.phase ≠ .idle) : c.cmdReady = false := by simpa [CycleState.cmdReady] using h

theorem BusyRun.trans (h : BusyRun r n c t) (h' : BusyRun r k t u) : BusyRun r (n + k) c u := by
  induction h with
  | refl c => rwa [Nat.zero_add]
  | step hbusy hresp hclock _ ih => rw [Nat.succ_add]; exact .step hbusy hresp hclock (ih h')

/-- The edges of a busy run, for a host that does not reset. -/
theorem BusyRun.clocks_eq (h : BusyRun r n c u) {ds : List HostDrive} (hn : ds.length = n)
    (hrst : ∀ e ∈ ds, e.rst = false) : c.clocks ds = .next u := by
  induction h generalizing ds with
  | refl c => rw [List.eq_nil_of_length_eq_zero hn]; rfl
  | step _ _ hclock _ ih =>
    obtain ⟨d, ds, rfl⟩ := List.exists_cons_of_length_eq_add_one hn
    obtain ⟨hd, hrest⟩ := List.forall_mem_cons.mp hrst
    rw [clocks_cons _ _ _ (hclock d hd)]
    exact ih (Nat.succ.inj hn) hrest

/-- After fewer edges than it has, a busy run is at a state with CMD_READY = 0 and the response channel as it was. -/
theorem BusyRun.clocks_take (h : BusyRun r n c u) {ds : List HostDrive} (hn : ds.length = n)
    (hrst : ∀ e ∈ ds, e.rst = false) (hk : k < n) :
    ∃ m, c.clocks (ds.take k) = .next m ∧ m.cmdReady = false ∧ m.core.response = r := by
  induction h generalizing ds k with
  | refl c => omega
  | step hbusy hresp hclock _ ih =>
    cases k with
    | zero => exact ⟨_, rfl, hbusy, hresp⟩
    | succ k =>
      obtain ⟨d, ds, rfl⟩ := List.exists_cons_of_length_eq_add_one hn
      obtain ⟨hd, hrest⟩ := List.forall_mem_cons.mp hrst
      rw [List.take_succ_cons, clocks_cons _ _ _ (hclock d hd)]
      exact ih (Nat.succ.inj hn) hrest (Nat.lt_of_succ_lt_succ hk)

end BusyRun

/-! ### One compression, edge by edge (R110 to R121, R200) -/

section Compression

variable (s : State) (job : Job) (blk : Block)

/-- The compressor's registers before the first round: a block's schedule, and the working variables of a hash state. -/
def beforeRounds (hin : HashState) (blk : Block) : Compressor :=
  ((Compressor.reset.schedLoad blk).schedExpand).wvInit hin

/-- The compressor's registers of the cycle level before round n, from its state in LOAD; W is not used (R121). -/
def compAtRound (n : Nat) : Compressor :=
  { s.comp with vars := varsBefore (beforeRounds s.h blk) n, round := Fin.ofNat 65 n, hin := s.h }

/-- The cycle level before round n of a compression, from its state in LOAD; after the last round it is in FF. -/
def atRound (n : Nat) : CycleState :=
  { core := s.writeComp (compAtRound s blk n)
    phase := if n < 64 then .round job else .ff job
    window := windowAfter blk n }

theorem loadEdge_eq_atRound (c : CycleState) : c.loadEdge job blk = atRound c.core job blk 0 := rfl

/-- The window gives each round the schedule word of the atomic rule (R121). -/
theorem windowWord_eq_beforeRounds (hin : HashState) {n : Nat} (hn : n < 64) :
    windowWord (windowAfter blk n) n = (beforeRounds hin blk).w[n] := by
  have hw : IsSchedule blk (beforeRounds hin blk).w := isSchedule_expand_load blk Compressor.reset
  exact windowWord_of_holds hw (windowHolds_after hw hn.le) hn

/-- A round with the window's word writes the working variables of the next one, and the round index (R116). -/
theorem roundWith_compAtRound {n : Nat} (hn : n < 64) :
    (compAtRound s blk n).roundWith (windowWord (windowAfter blk n) n) ⟨n, hn⟩ = compAtRound s blk (n + 1) := by
  have hround : (⟨n, hn⟩ : Fin 64).succ = Fin.ofNat 65 (n + 1) := by
    apply Fin.ext; simp; omega
  rw [windowWord_eq_beforeRounds blk s.h hn, compAtRound, compAtRound, varsBefore_succ _ hn, Compressor.roundWith,
    hround]
  rfl

variable {c : CycleState} {n : Nat}

theorem roundEdge_of_round (hround : c.core.comp.round.val = n) (hn : n < 64) : c.roundEdge job =
    { core := c.core.writeComp (c.core.comp.roundWith (windowWord c.window n) ⟨n, hn⟩)
      phase := if n = 63 then .ff job else .round job
      window := windowStep c.window n } := by
  subst hround
  rw [CycleState.roundEdge, dif_pos hn]

/-- An edge of ROUND is one round of the atomic rule. -/
theorem roundEdge_atRound (hn : n < 64) : (atRound s job blk n).roundEdge job = atRound s job blk (n + 1) := by
  have hval : (atRound s job blk n).core.comp.round.val = n := Nat.mod_eq_of_lt (by omega)
  have hphase : (if n = 63 then Phase.ff job else .round job) = if n + 1 < 64 then .round job else .ff job := by
    by_cases hlast : n = 63
    · rw [if_pos hlast, if_neg (by omega)]
    · rw [if_neg hlast, if_pos (by omega)]
  rw [roundEdge_of_round job hval hn, hphase]
  simp only [atRound, writeComp_comp, writeComp_writeComp, roundWith_compAtRound s blk hn]
  rfl

/-- The rounds are a busy run: no drive but RST has a part in them. -/
theorem busyRun_rounds (hm : s.refusalMark = none) (hn : n ≤ 64) :
    BusyRun s.response n (atRound s job blk 0) (atRound s job blk n) := by
  induction n with
  | zero => exact .refl _
  | succ n ih =>
    have hphase : (atRound s job blk n).phase = .round job := if_pos (by omega)
    have hlast : BusyRun s.response 1 (atRound s job blk n) (atRound s job blk (n + 1)) := by
      refine .step (cmdReady_eq_false (by rw [hphase]; nofun)) rfl (fun d hr => ?_) (.refl _)
      rw [clock_running _ d hm hr, hphase, ← roundEdge_atRound s job blk hn]
    exact (ih (by omega)).trans hlast

/-- The edge-by-edge rounds have the result of the atomic compression (R118, R119). -/
theorem feedFwd_compAtRound : (compAtRound s blk 64).feedFwd = compress s.h blk := by
  rw [compress, Compressor.run, feedFwd_rounds, ← beforeRounds]
  exact feedFwd_congr rfl rfl

theorem atRound_last :
    atRound s job blk 64 = ⟨s.writeComp (compAtRound s blk 64), .ff job, windowAfter blk 64⟩ := by
  rw [atRound, if_neg (Nat.lt_irrefl 64)]

/-- One compression takes 66 edges of a busy core: LOAD, 64 of ROUND, and FF with the result of the atomic compression in
the compressor. -/
theorem busyRun_compression (hm : c.core.refusalMark = none) (hload : c.phase = .load job blk) :
    ∃ comp win, comp.feedFwd = compress c.core.h blk ∧
      BusyRun c.core.response 66 c (CycleState.ffEdge job ⟨c.core.writeComp comp, .ff job, win⟩) := by
  have hstart : BusyRun c.core.response 1 c (atRound c.core job blk 0) := by
    refine .step (cmdReady_eq_false (by rw [hload]; nofun)) rfl (fun d hr => ?_) (.refl _)
    rw [clock_running c d hm hr, hload, ← loadEdge_eq_atRound]
  have hend (comp : Compressor) (win : Vector Word 16) : BusyRun c.core.response 1
      ⟨c.core.writeComp comp, .ff job, win⟩ (CycleState.ffEdge job ⟨c.core.writeComp comp, .ff job, win⟩) :=
    .step rfl rfl (fun d hr => clock_running _ d hm hr) (.refl _)
  have hrounds := busyRun_rounds c.core job blk hm (le_refl 64)
  rw [atRound_last] at hrounds
  exact ⟨_, _, feedFwd_compAtRound c.core blk, (hstart.trans hrounds).trans (hend _ _)⟩

end Compression

/-! ### The edge of FF (R200) -/

section FeedForward

variable {c : CycleState} {hf : HashState}

theorem ffEdge_update (h : c.core.comp.feedFwd = hf) : c.ffEdge .update =
    { c with core := ((c.core.writeH hf).writeBitcnt (c.core.bitcnt + 512)).writeBuflen 0, phase := .idle } := by
  subst h; rfl

/-- The second of two final blocks is made of BUFLEN and BITCNT, which the result in H leaves (R146). -/
theorem ffEdge_finalizeFirst (h : c.core.comp.feedFwd = hf) : c.ffEdge .finalizeFirst =
    { c with core := c.core.writeH hf, phase := .load .finalizeLast c.core.padSecond } := by
  subst h; rfl

theorem ffEdge_finalizeLast (h : c.core.comp.feedFwd = hf) : c.ffEdge .finalizeLast =
    { c with core := (c.core.writeH hf).respond (digestOf hf), phase := .resp } := by
  subst h; rfl

end FeedForward

/-! ### UPDATE, edge by edge (R200) -/

section Update

variable {c : CycleState} {d : HostDrive}

/-- The accepting edge (R71, R200). -/
theorem clock_accept {i : Instr} (hm : c.core.refusalMark = none) (hidle : c.phase = .idle) (hr : d.rst = false)
    (hc : d.cmd = some (encode i)) : c.clock d = .next (c.accept i) := by
  rw [clock_running c d hm hr, hidle, hc]
  simp only [CycleState.idleEdge, decode_encode]

theorem accept_update_of_ne (b : Byte) (h : c.core.buflen ≠ 63) :
    c.accept (.update b) = { c with core := c.core.update b } := by
  rw [CycleState.accept, if_neg h, update_of_ne _ _ h]

/-- An UPDATE that fills the buffer is busy for one compression, and then idle with the effect of the atomic rule. -/
theorem busyRun_update (b : Byte) (hm : c.core.refusalMark = none) (hfull : c.core.buflen = 63) :
    ∃ c', BusyRun c.core.response 66 (c.accept (.update b)) c' ∧ c'.phase = .idle ∧
      c'.core.observed = (c.core.update b).observed := by
  have haccept : c.accept (.update b) = { c with
      core := c.core.writeBuf c.core.buflen b
      phase := .load .update (c.core.writeBuf c.core.buflen b).buf } := if_pos hfull
  obtain ⟨comp, win, hff, hrun⟩ := busyRun_compression (c := c.accept (.update b)) .update _
    (by rw [haccept]; exact hm) (by rw [haccept])
  rw [haccept] at hff hrun ⊢
  rw [ffEdge_update hff] at hrun
  refine ⟨_, hrun, rfl, ?_⟩
  rw [update_of_eq _ _ hfull, completeBlock_eq]
  simp only [State.observed, State.writeComp, State.writeH, State.writeBitcnt, State.writeBuflen]

end Update

/-- Settles O41: below 63 pending bytes the accepting edge does it all; at 63 a busy run of one compression follows. -/
theorem cycleUpdateRefinesAtomicRule : Obligations.CycleUpdateRefinesAtomicRule := by
  intro c b d ds hm hidle hr hc hds hlen
  have haccept : c.clock d = .next (c.accept (.update b)) := clock_accept hm hidle hr hc
  simp only [clocks_cons _ _ _ haccept]
  by_cases hfull : c.core.buflen = 63
  · have hlen' : ds.length = 66 := by rw [hlen, compressions, if_pos hfull]
    obtain ⟨c', hrun, hphase, hobs⟩ := busyRun_update b hm hfull
    exact ⟨_, c', exec_update _ b, hrun.clocks_eq hlen' hds, hphase, hobs,
      fun k hk => hrun.clocks_take hlen' hds (hlen' ▸ hk)⟩
  · obtain rfl : ds = [] := List.eq_nil_of_length_eq_zero (by rw [hlen, compressions, if_neg hfull])
    rw [accept_update_of_ne b hfull]
    exact ⟨_, _, exec_update _ b, rfl, hidle, rfl, nofun⟩

/-! ### FINALIZE, edge by edge (R200) -/

section Finalize

variable {c : CycleState}

/-- The last compression of FINALIZE ends in RESP with the digest of its result offered. -/
theorem busyRun_finalizeLast {blk : Block} (hm : c.core.refusalMark = none) (hload : c.phase = .load .finalizeLast blk) :
    ∃ comp win, BusyRun c.core.response 66 c
      ⟨((c.core.writeComp comp).writeH (compress c.core.h blk)).respond (digestOf (compress c.core.h blk)), .resp,
        win⟩ := by
  obtain ⟨comp, win, hff, hrun⟩ := busyRun_compression .finalizeLast blk hm hload
  rw [ffEdge_finalizeLast hff] at hrun
  exact ⟨comp, win, hrun⟩

/-- The first of two compressions of FINALIZE ends in LOAD of the second block, with its result in H. -/
theorem busyRun_finalizeFirst {blk : Block} (hm : c.core.refusalMark = none)
    (hload : c.phase = .load .finalizeFirst blk) :
    ∃ comp win, BusyRun c.core.response 66 c
      ⟨(c.core.writeComp comp).writeH (compress c.core.h blk), .load .finalizeLast c.core.padSecond, win⟩ := by
  obtain ⟨comp, win, hff, hrun⟩ := busyRun_compression .finalizeFirst blk hm hload
  rw [ffEdge_finalizeFirst hff] at hrun
  exact ⟨comp, win, hrun⟩

/-- FINALIZE is busy for its one or two compressions, and then in RESP with the atomic rule's final hash state in H and
its digest offered. -/
theorem busyRun_finalize (hm : c.core.refusalMark = none) :
    ∃ comp win, BusyRun c.core.response (66 * compressions .finalize c.core) (c.accept .finalize)
      ⟨((c.core.writeComp comp).writeH c.core.finalCompress.hout).respond (digestOf c.core.finalCompress.hout), .resp,
        win⟩ := by
  rw [hout_finalCompress]
  by_cases h : c.core.buflen.toNat ≤ 55
  · have haccept : c.accept .finalize = { c with phase := .load .finalizeLast (c.core.padOne h) } := dif_pos h
    rw [haccept, dif_pos h, compressions, if_pos h]
    exact busyRun_finalizeLast (c := { c with phase := .load .finalizeLast (c.core.padOne h) }) hm rfl
  · have haccept : c.accept .finalize = { c with phase := .load .finalizeFirst c.core.padFirst } := dif_neg h
    rw [haccept, dif_neg h, compressions, if_neg h]
    obtain ⟨comp, win, hfirst⟩ :=
      busyRun_finalizeFirst (c := { c with phase := .load .finalizeFirst c.core.padFirst }) hm rfl
    obtain ⟨comp', win', hlast⟩ := busyRun_finalizeLast (c := ⟨(c.core.writeComp comp).writeH
      (compress c.core.h c.core.padFirst), .load .finalizeLast c.core.padSecond, win⟩) hm rfl
    exact ⟨comp', win', hfirst.trans hlast⟩

/-- In RESP the core waits for as long as the host is not ready (R196, R200). -/
theorem clocks_resp (hm : c.core.refusalMark = none) (hresp : c.phase = .resp) (ws : List HostDrive)
    (hws : ∀ e ∈ ws, e.rst = false ∧ e.digestReady = false) : c.clocks ws = .next c := by
  induction ws with
  | nil => rfl
  | cons e ws ih =>
    obtain ⟨⟨hr, hready⟩, hrest⟩ := List.forall_mem_cons.mp hws
    have hedge : c.clock e = .next c := by rw [clock_running c e hm hr, hresp, hready]; rfl
    rw [clocks_cons _ _ _ hedge, ih hrest]

/-- The edge of RESP at which the host takes the digest (R72, R200). -/
theorem clock_resp_take {e : HostDrive} (hm : c.core.refusalMark = none) (hresp : c.phase = .resp) (hr : e.rst = false)
    (hready : e.digestReady = true) :
    c.clock e = .next { c with core := c.core.takeDigest.enterS0, phase := .idle } := by
  rw [clock_running c e hm hr, hresp, hready]; rfl

/-- Whether S0 is entered before the digest is taken or after, and whatever the compressor and H held, the same is
observed. -/
theorem observed_takeDigest_enterS0 (s : State) (comp comp' : Compressor) (hf : HashState) (dg : Digest) :
    (((s.writeComp comp).writeH hf).respond dg).takeDigest.enterS0.observed =
      ((s.writeComp comp').respond dg).enterS0.takeDigest.observed := rfl

end Finalize

/-- Settles O42: a busy run of one or two compressions, then RESP until the digest is taken, and then S0. -/
theorem cycleFinalizeRefinesAtomicRule : Obligations.CycleFinalizeRefinesAtomicRule := by
  intro c d ds hm hidle hr hc hds hlen
  have haccept : c.clock d = .next (c.accept .finalize) := clock_accept hm hidle hr hc
  obtain ⟨comp, win, hrun⟩ := busyRun_finalize hm
  generalize hc' : CycleState.mk _ Phase.resp win = c' at hrun
  have hphase : c'.phase = .resp := by rw [← hc']
  have hm' : c'.core.refusalMark = none := by rw [← hc']; exact hm
  have hend : c.clocks (d :: ds) = .next c' := by rw [clocks_cons _ _ _ haccept, hrun.clocks_eq hlen hds]
  refine ⟨_, c', exec_finalize _, hend, hphase, cmdReady_eq_false (by rw [hphase]; nofun), ?_, fun k hk => ?_,
    fun ws hws => ?_⟩
  · rw [← hc', finalize_response]; rfl
  · rw [clocks_cons _ _ _ haccept]
    exact hrun.clocks_take hlen hds (hlen ▸ hk)
  · have hwait : c.clocks (d :: (ds ++ ws)) = .next c' := by
      rw [← List.cons_append, clocks_append _ _ _ hend, clocks_resp hm' hphase ws hws]
    refine ⟨hwait, fun e hre hready => ⟨{ c' with core := c'.core.takeDigest.enterS0, phase := .idle }, ?_, rfl, ?_⟩⟩
    · rw [← List.cons_append, clocks_append _ _ _ hwait, clocks_cons _ _ _ (clock_resp_take hm' hphase hre hready)]; rfl
    · obtain ⟨comp', hfinalize⟩ := finalize_eq c.core
      rw [hfinalize, ← hc']
      exact observed_takeDigest_enterS0 _ _ _ _ _

end Sys2Proof.Proofs
